-- ==== Sys2Proof/Word.lean ====
section
/-! DEFINITION. The words of the Spica display engine: 32-bit register values and 8-bit memory bytes (rules R6, R7). -/

namespace Sys2Proof

/-- A register value, a command word or a physical address: 32 bits (rule R6: XLEN, PADDR). -/
abbrev Word := BitVec 32

/-- One byte of frame-buffer memory or one colour component (rules R55, R195). -/
abbrev Byte := BitVec 8

end Sys2Proof
end

