-- ==== Sys2Proof/Syntax.lean ====
section
/-! DEFINITION. The twelve commands of the block: one constructor per row of the opcode map (rules R100, R105). -/

namespace Sys2Proof

/-- A decoded command word: the mnemonic and the fields of its format (rules R103, R105). A field that selects a
window is the number in the word, checked against NWIN by the command itself (rule R110). -/
inductive Instr
  /-- TIMING (rule R140): run the timing calculator and program its results. Format G. -/
  | timing
  /-- OUTON (rule R142): enable the vsync interrupt source and the output. Format G. -/
  | outon
  /-- OUTOFF (rule R143): disable the output. Format G. -/
  | outoff
  /-- WCFG (rule R158): configure a window. Format C: WIN, FMT, SE, DB, BL, PD. -/
  | wcfg (win : Nat) (fmt : BitVec 2) (se db bl pd : Bool)
  /-- WPAN (rule R166): pan a window inside its buffer. Format W: WIN. -/
  | wpan (win : Nat)
  /-- WEN (rule R172): enable a window. Format W: WIN. -/
  | wen (win : Nat)
  /-- WDIS (rule R173): disable a window. Format W: WIN. -/
  | wdis (win : Nat)
  /-- PSET (rule R182): store a pending palette entry. Format P: WIN, IDX. -/
  | pset (win : Nat) (idx : Nat)
  /-- PFLUSH (rule R184): flush the pending palette entries. Format W: WIN. -/
  | pflush (win : Nat)
  /-- VWAIT (rule R218): arm a vsync waiter slot. Format S: SLOT. -/
  | vwait (slot : Nat)
  /-- SUSP (rule R232): suspend. Format G. -/
  | susp
  /-- RESM (rule R237): resume. Format G. -/
  | resm
deriving DecidableEq, Repr

end Sys2Proof
end

