-- ==== Sys2Proof/WellFormed.lean ====
section
/-! DEFINITION. Which terms of `Instr` some command word encodes: every field within its width (rule R103). -/

namespace Sys2Proof

/-- WIN is four bits of the word (rule R103). A value of NWIN or more is encodable and rejected by the command. -/
def winFits (win : Nat) : Bool := decide (win < 16)

/-- IDX is eight bits of the word (rule R103). -/
def idxFits (idx : Nat) : Bool := decide (idx < 256)

/-- SLOT is two bits of the word (rule R103). -/
def slotFits (slot : Nat) : Bool := decide (slot < 4)

/-- Every field of the instruction fits the field of its format (rules R103, R105). -/
def Instr.wellFormed : Instr → Bool
  | .timing => true
  | .outon => true
  | .outoff => true
  | .wcfg win _ _ _ _ _ => winFits win
  | .wpan win => winFits win
  | .wen win => winFits win
  | .wdis win => winFits win
  | .pset win idx => winFits win && idxFits idx
  | .pflush win => winFits win
  | .vwait slot => slotFits slot
  | .susp => true
  | .resm => true

end Sys2Proof
end

