-- ==== Sys2Proof/Decode.lean ====
section
/-! DEFINITION. The command word: its decoder, total on any word and any bytes and rejecting by name, and its encoder
(rules R103, R105, R109). -/

namespace Sys2Proof

/-- Why a word or a run of bytes is no command (rule R109). -/
inductive DecodeError
  /-- Bits [31:24] hold an OPC value that the opcode map does not list. -/
  | unlistedOpcode (opc : Nat)
  /-- The OPC value is listed, and a bit its format shows as 0 is 1. -/
  | reservedBitSet (opc : Nat)
  /-- The bytes are not exactly one 32-bit word. -/
  | notOneWord (bytes : Nat)
deriving DecidableEq, Repr

/-- Bits [31:24] of a command word: OPC (rule R103). -/
def opcField (w : Word) : Nat := (w.extractLsb' 24 8).toNat

/-- Bits [23:20]: WIN (rule R103). -/
def winField (w : Word) : Nat := (w.extractLsb' 20 4).toNat

/-- Bits [19:18]: FMT (rule R103). -/
def fmtField (w : Word) : BitVec 2 := w.extractLsb' 18 2

/-- Bits [7:0]: IDX (rule R103). -/
def idxField (w : Word) : Nat := (w.extractLsb' 0 8).toNat

/-- Bits [17:16]: SLOT (rule R103). -/
def slotField (w : Word) : Nat := (w.extractLsb' 16 2).toNat

/-- `i` when every bit outside `mask` that the format shows as 0 is 0, that is `w AND mask = match` (rule R105). -/
def whenMatches (w mask pattern : Word) (i : Instr) : Except DecodeError Instr :=
  if w &&& mask = pattern then .ok i else .error (.reservedBitSet (opcField w))

/-- The decoder: the row of the opcode map that the word selects, with the row's fields (rules R103, R105, R109). -/
def decodeWord (w : Word) : Except DecodeError Instr :=
  match opcField w with
  | 0x01 => whenMatches w 0xFFFFFFFF#32 0x01000000#32 .timing
  | 0x02 => whenMatches w 0xFFFFFFFF#32 0x02000000#32 .outon
  | 0x03 => whenMatches w 0xFFFFFFFF#32 0x03000000#32 .outoff
  | 0x10 => whenMatches w 0xFF003FFF#32 0x10000000#32
      (.wcfg (winField w) (fmtField w) (w.getLsbD 17) (w.getLsbD 16) (w.getLsbD 15) (w.getLsbD 14))
  | 0x11 => whenMatches w 0xFF0FFFFF#32 0x11000000#32 (.wpan (winField w))
  | 0x12 => whenMatches w 0xFF0FFFFF#32 0x12000000#32 (.wen (winField w))
  | 0x13 => whenMatches w 0xFF0FFFFF#32 0x13000000#32 (.wdis (winField w))
  | 0x20 => whenMatches w 0xFF0FFF00#32 0x20000000#32 (.pset (winField w) (idxField w))
  | 0x21 => whenMatches w 0xFF0FFFFF#32 0x21000000#32 (.pflush (winField w))
  | 0x30 => whenMatches w 0xFFFCFFFF#32 0x30000000#32 (.vwait (slotField w))
  | 0x40 => whenMatches w 0xFFFFFFFF#32 0x40000000#32 .susp
  | 0x41 => whenMatches w 0xFFFFFFFF#32 0x41000000#32 .resm
  | opc => .error (.unlistedOpcode opc)

/-- A 32-bit word from its four bytes, the byte at the lowest address first and least significant (rule R73). -/
def wordOfBytes (b0 b1 b2 b3 : Byte) : Word := b3 ++ b2 ++ b1 ++ b0

/-- The four bytes of a word on the bus, lowest address first (rule R73). -/
def bytesOfWord (w : Word) : List Byte :=
  [w.extractLsb' 0 8, w.extractLsb' 8 8, w.extractLsb' 16 8, w.extractLsb' 24 8]

/-- The decoder on bytes: a command is exactly one 32-bit word (rule R103). -/
def decodeBytes : List Byte → Except DecodeError Instr
  | [b0, b1, b2, b3] => decodeWord (wordOfBytes b0 b1 b2 b3)
  | bs => .error (.notOneWord bs.length)

/-- The word that an opcode-table row of `nbits` bits and the number `w` stand for: the bits above `nbits` are 0. -/
def tableWord (nbits w : Nat) : Word := BitVec.ofNat 32 (w % 2 ^ nbits)

/-- What the decoder reads from an instruction whose bits are `w` (the opcode table's numbering). -/
def decodeTableWord (nbits w : Nat) : Option Instr :=
  (decodeBytes (bytesOfWord (tableWord nbits w))).toOption

/-! ### The encoder -/

/-- A word from its OPC and WIN fields and its low 20 bits (rule R103). -/
def assemble (opc win : Nat) (low : BitVec 20) : Word := BitVec.ofNat 8 opc ++ BitVec.ofNat 4 win ++ low

/-- The word of an instruction, field by field as rule R103 lays the five formats out. -/
def encode : Instr → Word
  | .timing => assemble 0x01 0 0
  | .outon => assemble 0x02 0 0
  | .outoff => assemble 0x03 0 0
  | .wcfg win fmt se db bl pd =>
      assemble 0x10 win
        (fmt ++ BitVec.ofBool se ++ BitVec.ofBool db ++ BitVec.ofBool bl ++ BitVec.ofBool pd ++ (0 : BitVec 14))
  | .wpan win => assemble 0x11 win 0
  | .wen win => assemble 0x12 win 0
  | .wdis win => assemble 0x13 win 0
  | .pset win idx => assemble 0x20 win ((0 : BitVec 12) ++ BitVec.ofNat 8 idx)
  | .pflush win => assemble 0x21 win 0
  | .vwait slot => assemble 0x30 0 ((0 : BitVec 2) ++ BitVec.ofNat 2 slot ++ (0 : BitVec 16))
  | .susp => assemble 0x40 0 0
  | .resm => assemble 0x41 0 0

end Sys2Proof
end

