-- ==== Sys2Proof/Config.lean ====
section
/-! DEFINITION. The implementation parameters of rule R6 and the free values: what the spec fixes is a number here,
what it leaves OPEN or calls a `draw` is an opaque constant of which nothing can be proved. -/

namespace Sys2Proof.Config

/-- NWIN, the number of windows (rule R6; the spec's D1 fixes 5). -/
abbrev nwin : Nat := 5

/-- PAGE, the rounding unit of a buffer's length in bytes (rules R6, R153). -/
abbrev page : Nat := 4096

/-- NSLOT, the number of vsync waiter slots (rules R6, R52). -/
abbrev nslot : Nat := 4

/-- Entries of one palette (rules R48, R49). -/
abbrev paletteSize : Nat := 256

/-- Physical addresses are 32 bits wide: 2^32 bytes of frame-buffer memory (rules R6, R70). -/
abbrev memorySize : Nat := 4294967296

/-- SETTLE_TICKS, the settle delay of SUSP in TICK events: OPEN (rules R6, R235; U6). Any natural number. -/
opaque settleTicks : Nat

/-- The readiness budget less one: OPEN (rules R6, R238; U7). -/
opaque retryBudgetLessOne : Nat

/-- RESUME_RETRY_BUDGET, the number of readiness polls of one RESM: OPEN, at least 1 (rules R6, R238). -/
def retryBudget : Nat := retryBudgetLessOne + 1

/-- BASE, the bus address of register offset 0: OPEN, read by no rule (rules R6, R81; U8). -/
opaque base : Nat

/-- The bus address of a register offset (rule R21). No rule of the block reads it. -/
def busAddress (offset : Nat) : Nat := base + offset

/-- FREE VALUE (U3, rules R49, R51, R236): the word that index `k` of window `i`'s palette memory of generation
`gen` holds until it is written. A new generation is drawn at reset and at every loss of the engine domain. -/
opaque freePaletteWord (gen i k : Nat) : Word

/-- FREE VALUE (U4, rule R198): what draw number `n` fetches for window `i` past the window's end address. -/
opaque freePixel (n i : Nat) : Word

/-- FREE VALUE (U19, rule R70): the byte that address `a` holds before anything has written it. -/
opaque freeMemoryByte (a : Nat) : Byte

end Sys2Proof.Config
end

