-- ==== Sys2Proof/Machine/State.lean ====
section
/-! DEFINITION. The architectural state as plain data: every register, flag, descriptor and piece of hidden state of
rules R20 to R57, the memory of rule R70, the other agents' pending choices, and the state after reset (R57, R281). -/

namespace Sys2Proof.Machine

/-- A window index below NWIN (rule R42). -/
abbrev Win := Fin Config.nwin

/-- One array element per window (rules R31, R42, R48 to R51). -/
abbrev PerWindow (α : Type) := Vector α Config.nwin

/-! ### Names of modes, results and registers -/

/-- The three pixel formats; the codes of the FMT field and of WD_FLAGS are 0, 1, 2 (rules R43, R47, R103). -/
inductive Format
  | indexed8
  | rgb565
  | rgb888
deriving DecidableEq, Repr

/-- PWRSTAT.PSTATE: the four power states, codes 0 to 3 (rules R27, R230). -/
inductive PState
  | active
  | suspending
  | suspended
  | resuming
deriving DecidableEq, Repr

/-- The result codes that a command can leave in STATUS.RESULT (rule R250). Code 6, Timeout, never stands there. -/
inductive Result
  | ok
  | invalidWindow
  | invalidGeometry
  | invalidFormat
  | invalidTiming
  | invalidPan
  | powerSequenceFailed
  | notReady
  | illegalCommand
deriving DecidableEq, Repr

/-- The shadowed registers that exist once per window (rule R31, column Sh). -/
inductive WinReg
  | ctl
  | posA
  | posB
  | start0
  | end0
  | start1
  | end1
  | size
  | blend
  | key
deriving DecidableEq, Repr

/-- The id of a shadowed engine register (rules R31, R39): nine global registers and the window registers. -/
inductive RegId
  | ctrl
  | timv
  | timh
  | timsize
  | timpol
  | dither
  | inten
  | palctl
  | alatch
  | win (i : Win) (f : WinReg)
deriving DecidableEq, Repr

/-- The control-domain registers of rule R26 by name; an index runs over what exists with NWIN = 5 and NSLOT = 4. -/
inductive ControlReg
  | cmd
  | status
  | retval
  | arg (k : Fin 6)
  | pwrstat
  | intmask
  | vscount
  | hwwrcnt
  | waitstat (k : Fin Config.nslot)
  | waitval (k : Fin Config.nslot)
  | srcclk
  | paldirty
  | palreq
  | cfgRes
  | cfgVres
  | cfgHtim
  | cfgVtim
  | cfgRefresh
  | cfgMisc
  | cfgPhys
  | fbBase (i : Win)
  | fbCap (i : Win)
  | wdFlags (i : Win)
  | wdBufbase (i : Win)
  | wdBuflen (i : Win)
  | wdStride (i : Win)
  | wdYoff (i : Win)
  | shadow (r : RegId)
deriving DecidableEq, Repr

/-- The engine-domain registers of rule R31 by name: the shadowed ones, INTPEND and the palette words. -/
inductive EngineReg
  | reg (r : RegId)
  | intpend
  | palram (i : Win) (k : Fin Config.paletteSize)
deriving DecidableEq, Repr

/-! ### Window descriptors -/

/-- A frame buffer's record (rule R45): physical base, length in bytes, whether it is split, the committed half. -/
structure Buffer where
  base : Word
  length : Nat
  double : Bool
  committed : Bool
deriving DecidableEq, Repr

/-- A blend record (rule R46): the colour key's three components and the alpha level. -/
structure Blend where
  keyR : Byte
  keyG : Byte
  keyB : Byte
  alpha : Byte
deriving DecidableEq, Repr

/-- A window descriptor WD[i] (rules R42 to R46). -/
structure Window where
  format : Option Format
  x : Nat
  y : Nat
  width : Nat
  height : Nat
  vwidth : Nat
  vheight : Nat
  lineStride : Nat
  panOffset : Nat
  yOffset : Nat
  buffer : Option Buffer
  enabled : Bool
  blend : Option Blend
  palDefer : Bool
deriving DecidableEq, Repr

/-- A window as it is created: no format, no buffer, not enabled, no blend, numbers 0 (rule R42). -/
def Window.created : Window :=
  { format := none, x := 0, y := 0, width := 0, height := 0, vwidth := 0, vheight := 0, lineStride := 0,
    panOffset := 0, yOffset := 0, buffer := none, enabled := false, blend := none, palDefer := false }

/-! ### Micro-steps (rule R9) -/

/-- One micro-step of a command or of the handler, by the rule that numbers it. A running agent holds the list of
its micro-steps still to take: that list is the model's form of the index `s` of rule R23. -/
inductive MicroOp
  /-- Entry of `Masked`: MASKDEPTH + 1 (rule R41). -/
  | maskEnter
  /-- Exit of `Masked`: MASKDEPTH - 1 (rule R41). -/
  | maskLeave
  /-- `RegWrite` w1 with the value (SHADOW[r] AND keep) OR bits (rule R40). -/
  | regShadow (r : RegId) (keep bits : Word)
  /-- `RegWrite` w2: the hardware half (rule R40). -/
  | regHardware (r : RegId) (v : Word)
  /-- `RegWrite` w3: MASKDEPTH - 1 (rule R40). -/
  | regUnmask
  /-- `PalWrite(i, k, v)` (rule R186). -/
  | palWrite (i : Win) (k : Fin Config.paletteSize) (v : Word)
  /-- `Flush(i)` f1: look at PALDIRTY and lay out f2 to f5 (rule R187). -/
  | flushStart (i : Win)
  /-- `Flush(i)` f5: every entry to Clear (rule R187). -/
  | flushClear (i : Win)
  /-- Zero-fill: write the byte at `addr`, then `left - 1` more (rule R157). -/
  | zeroFill (addr left : Nat)
  /-- TIMING s8 (rule R140). -/
  | commitTiming (div : Nat)
  /-- WCFG s11 (rule R158). -/
  | commitWindow (i : Win) (d : Window)
  /-- WPAN s3 (rule R166). -/
  | commitPan (i : Win) (yOffset : Nat) (half : Bool)
  /-- WEN s3 and WDIS s3 (rules R172, R173). -/
  | commitEnable (i : Win) (on : Bool)
  /-- PFLUSH s2 of a deferred window: PALREQ[i] (rule R184). -/
  | requestFlush (i : Win)
  /-- `return OK` without a value (rule R102). -/
  | returnOk
  /-- SUSP s2 (rule R232). -/
  | enterSuspending
  /-- SUSP s3: the snapshot (rules R232, R233). -/
  | capture
  /-- SUSP s4: the output event IDLE_PINS_REQ (rule R234). -/
  | idlePins
  /-- SUSP s5: SETTLE <- SETTLE_TICKS (rule R235). -/
  | startSettle
  /-- SUSP s6, enabled only when SETTLE = 0 (rules R232, R235, R236). -/
  | gateWhenSettled
  /-- SUSP s7 (rule R232). -/
  | enterSuspended
  /-- RESM s2 (rule R237). -/
  | enterResuming
  /-- RESM s3 (rule R237). -/
  | clocksOn
  /-- RESM s4: RETRY <- 0 (rule R238); that it is a micro-step of its own is DESIGN CHOICE, log entry 31. -/
  | retryClear
  /-- RESM s4: one iteration of the readiness poll (rule R238). -/
  | pollReady
  /-- RESM s6: re-run `TimingCalc` and lay out its six writes (rules R237, R241). -/
  | rederive
  /-- RESM s8 (rule R237). -/
  | dropSnapshot
  /-- RESM s9 (rule R237). -/
  | enterActive
  /-- RESM fail, first line: the clocks off and the engine domain lost (rule R237). A micro-step apart from the second line:
  DESIGN CHOICE, log entry 31. -/
  | gateFailed
  /-- RESM fail, second line: PSTATE <- Suspended and PowerSequenceFailed (rules R237, R242). -/
  | resumeFailed
  /-- Handler h2 (rule R262). -/
  | countVsync
  /-- Handler h3 (rules R219, R262). -/
  | wakeWaiters
  /-- Handler h4 for window `i`: if PALREQ[i] then `Flush(i)` (rule R262). -/
  | serveFlush (i : Win)
  /-- Handler h4 for window `i`, after its flush: PALREQ[i] <- 0 (rule R262); that it is a micro-step of its own is DESIGN
  CHOICE, log entry 31. -/
  | clearRequest (i : Win)
  /-- Handler h5: IH <- Idle (rule R262). -/
  | handlerReturn
deriving DecidableEq, Repr

/-- CSQ, the command sequencer (rule R23). `accepted` is Running(w, x, 1): a doorbell write has been accepted and no
micro-step taken; w is the CMD register and x the latch. `running` holds the micro-steps left. -/
inductive Csq
  | idle
  | accepted
  | running (todo : List MicroOp)
deriving DecidableEq, Repr

/-- IH, the interrupt handler (rules R54, R262), with the micro-steps it has left. -/
inductive Handler
  | idle
  | running (todo : List MicroOp)
deriving DecidableEq, Repr

/-! ### Registers and units -/

/-- The command port (rules R22 to R24): CMD, ARG0..ARG5, the argument latch x, RETVAL, the stored fields of STATUS
and the sequencer. STATUS.BUSY is not stored: it is 1 exactly when `csq` is not idle (rule R23). -/
structure Port where
  cmd : Word
  args : Vector Word 6
  latch : Vector Word 6
  retval : Word
  result : Result
  overrun : Bool
  configured : Bool
  /-- STATUS.FAULT: `some r` after `raise GatedAccess(r)`, `r` the offset named in the raise (rule R256). -/
  fault : Option Nat
  csq : Csq
deriving DecidableEq, Repr

/-- SRCCLK and the CFG bank with the carve-out registers, one word per register (rules R26, R30). -/
structure ConfigBank where
  srcclk : Word
  res : Word
  vres : Word
  htim : Word
  vtim : Word
  refresh : Word
  misc : Word
  phys : Word
  fbBase : PerWindow Word
  fbCap : PerWindow Word
deriving DecidableEq, Repr

/-- The registers of one window (rules R31, R38). START1, END1 exist for windows 0 and 1, BLEND and KEY for windows 1
and above; a register that does not exist is written by no rule and stays 0. -/
structure WinRegs where
  ctl : Word
  posA : Word
  posB : Word
  start0 : Word
  end0 : Word
  start1 : Word
  end1 : Word
  size : Word
  blend : Word
  key : Word
deriving DecidableEq, Repr

/-- The shadowed engine registers (rule R31); the same shape holds REG, SHADOW and the snapshot's values. -/
structure EngineRegs where
  ctrl : Word
  timv : Word
  timh : Word
  timsize : Word
  timpol : Word
  dither : Word
  inten : Word
  palctl : Word
  alatch : Word
  win : PerWindow WinRegs
deriving DecidableEq, Repr

/-- The power sequencer (rules R27, R53, R54): PSTATE, the two clock bits, SNAPSHOT, SETTLE and RETRY. SNAPSHOT holds
a value for every shadowed id; the ordered list of pairs is those values in the fixed order of rule R233. -/
structure Power where
  pstate : PState
  busclkOn : Bool
  pixclkOn : Bool
  snapshot : Option EngineRegs
  settle : Nat
  retry : Nat
deriving DecidableEq, Repr

/-- The state of a waiter slot, WSTATE codes 0 to 3 (rules R52, R216). -/
inductive WaitState
  | idle
  | waiting
  | done
  | timedOut
deriving DecidableEq, Repr

/-- A vsync waiter slot (rules R52, R216). -/
structure Waiter where
  state : WaitState
  snap : Word
  rem : Word
  val : Word
deriving DecidableEq, Repr

/-- The vsync unit: MASKDEPTH, the handler, VSCOUNT and the waiter slots (rules R28, R41, R52, R54). -/
structure Vsync where
  maskdepth : Nat
  handler : Handler
  vscount : Word
  waiters : Vector Waiter Config.nslot
deriving DecidableEq, Repr

/-- A pending palette table: 256 ordered entries, `none` for Clear and `some v` for Value(v) (rule R48). -/
abbrev PendTable := Vector (Option Word) Config.paletteSize

/-- The control-domain half of the palette unit: PALPEND, PALDIRTY and PALREQ per window (rules R25, R48). -/
structure PalettePending where
  table : PerWindow (Option PendTable)
  dirty : PerWindow Bool
  request : PerWindow Bool
deriving DecidableEq, Repr

/-- One palette memory of 256 words (rules R49, R51): `none` is a word not written since its generation was drawn,
and reads as the free value `Config.freePaletteWord gen i k`. -/
structure PaletteMem where
  gen : Nat
  words : Vector (Option Word) Config.paletteSize
deriving DecidableEq, Repr

/-- A palette memory of generation `gen` with nothing written. -/
def PaletteMem.drawn (gen : Nat) : PaletteMem := { gen := gen, words := Vector.replicate Config.paletteSize none }

/-- CUR, the scan-out cursor: Idle or a panel coordinate (rules R54, R195). -/
inductive Cursor
  | idle
  | at (px py : Nat)
deriving DecidableEq, Repr

/-- The engine domain (rules R20, R31, R35, R49 to R51, R54): all of it is lost when its clocks are gated. -/
structure Engine where
  regs : EngineRegs
  intpend : Bool
  palram : PerWindow PaletteMem
  actStart : PerWindow Word
  actEnd : PerWindow Word
  actpal : PerWindow PaletteMem
  cur : Cursor
deriving DecidableEq, Repr

/-! ### The world around the block -/

/-- Frame-buffer memory (rule R70): the bytes written so far, addresses strictly rising. An unlisted address has no
stored value. -/
abbrev Memory := List Host.Cell

/-- The width of a host access to the register port (rules R76, R77). -/
inductive Width
  | byte
  | half
  | word
deriving DecidableEq, Repr

/-- A naturally aligned unit of frame-buffer memory, the extent of one host write (rule R87): the byte at `n`, the two
bytes from `2 n`, the four bytes from `4 n`. Every unit lies below 2^32. -/
inductive MemUnit
  | byte (n : BitVec 32)
  | half (n : BitVec 31)
  | word (n : BitVec 30)
deriving DecidableEq, Repr

/-- A colour: three 8-bit components (rule R195). -/
structure Rgb where
  r : Byte
  g : Byte
  b : Byte
deriving DecidableEq, Repr

/-- What the block sends out: the pixel stream (rule R195), the idle-pin request (rule R234) and the data of the
host's reads (rules R71, R78). -/
inductive Output
  | pixel (frame px py : Nat) (colour : Rgb)
  | idlePinsReq
  | readData (offset : Nat) (v : Word)
  | memData (addr : Word) (v : Byte)
deriving DecidableEq, Repr

/-- A choice of which agent steps next (rules R9, R10, R264), or an input of the platform. -/
inductive Event
  /-- The command sequencer takes its next micro-step. -/
  | sequencer
  /-- The interrupt handler starts or takes its next micro-step (rules R261, R262). -/
  | handler
  /-- The timing generator starts a frame (rule R260). -/
  | frameStart
  /-- The scan-out unit emits one pixel (rule R196). -/
  | scanOut
  /-- TICK of the timebase (rule R220). -/
  | tick
  /-- The host reads the register port (rules R76 to R78). -/
  | hostRead (width : Width) (offset : Nat)
  /-- The host writes the register port (rules R76, R77, R79). -/
  | hostWrite (width : Width) (offset : Nat) (v : Word)
  /-- The host reads one byte of frame-buffer memory (rules R70, R87): a wider read is several of these choices. -/
  | memRead (addr : Word)
  /-- The host writes one naturally aligned unit of frame-buffer memory (rules R70, R87): a wider or misaligned write
  is several of these choices, in any order and with any others between them (`byteWrites`). -/
  | memWrite (unit : MemUnit) (v : Word)
  /-- The platform sets its input domain_ready (rules R10, R238). -/
  | domainReady (level : Bool)
  /-- The platform's reset input (rule R280). -/
  | reset
deriving DecidableEq, Repr

/-- The model's own fields: the memory behind the block, the platform's readiness input, the agents' choices still to
come (in order), the outputs so far (newest first), the number of draws made, and whose turn it is among the agents of
an idle block when nothing is scheduled. -/
structure Platform where
  mem : Memory
  domainReady : Bool
  schedule : List Event
  out : List Output
  draws : Nat
  turn : Nat
deriving DecidableEq, Repr

/-- The whole machine (rules R20 to R57). -/
structure State where
  port : Port
  cfg : ConfigBank
  power : Power
  vsync : Vsync
  windows : PerWindow Window
  pend : PalettePending
  shadow : EngineRegs
  hwwrcnt : Word
  frame : Nat
  engine : Engine
  env : Platform
deriving DecidableEq, Repr

/-! ### Reset -/

/-- Every register of a window 0 (rules R31, R57). -/
def WinRegs.zero : WinRegs :=
  { ctl := 0, posA := 0, posB := 0, start0 := 0, end0 := 0, start1 := 0, end1 := 0, size := 0, blend := 0, key := 0 }

/-- Every shadowed register 0 (rules R31, R39, R57). -/
def EngineRegs.zero : EngineRegs :=
  { ctrl := 0, timv := 0, timh := 0, timsize := 0, timpol := 0, dither := 0, inten := 0, palctl := 0, alatch := 0,
    win := Vector.replicate Config.nwin WinRegs.zero }

/-- The engine domain after reset and after it loses its clocks (rules R57, R236): registers, latches and cursor
zero or idle, the palette memories of draw number `d`. -/
def Engine.lost (d : Nat) : Engine :=
  { regs := EngineRegs.zero, intpend := false,
    palram := Vector.replicate Config.nwin (PaletteMem.drawn (2 * d)),
    actStart := Vector.replicate Config.nwin 0, actEnd := Vector.replicate Config.nwin 0,
    actpal := Vector.replicate Config.nwin (PaletteMem.drawn (2 * d + 1)), cur := .idle }

/-- The command port after reset (rule R281). -/
def Port.reset : Port :=
  { cmd := 0, args := Vector.replicate 6 0, latch := Vector.replicate 6 0, retval := 0, result := .ok,
    overrun := false, configured := false, fault := none, csq := .idle }

/-- The CFG bank after reset (rule R281). -/
def ConfigBank.reset : ConfigBank :=
  { srcclk := 0, res := 0, vres := 0, htim := 0, vtim := 0, refresh := 0, misc := 0, phys := 0,
    fbBase := Vector.replicate Config.nwin 0, fbCap := Vector.replicate Config.nwin 0 }

/-- The power sequencer after reset: Active, both clocks on (rules R27, R281). -/
def Power.reset : Power :=
  { pstate := .active, busclkOn := true, pixclkOn := true, snapshot := none, settle := 0, retry := 0 }

/-- A waiter slot after reset (rule R52). -/
def Waiter.reset : Waiter := { state := .idle, snap := 0, rem := 0, val := 0 }

/-- The vsync unit after reset (rule R281). -/
def Vsync.reset : Vsync :=
  { maskdepth := 0, handler := .idle, vscount := 0, waiters := Vector.replicate Config.nslot Waiter.reset }

/-- The pending palette state after reset (rule R48). -/
def PalettePending.reset : PalettePending :=
  { table := Vector.replicate Config.nwin none, dirty := Vector.replicate Config.nwin false,
    request := Vector.replicate Config.nwin false }

/-- The model's own fields at the first reset: nothing written, nothing scheduled, nothing emitted. -/
def Platform.initial : Platform :=
  { mem := [], domainReady := false, schedule := [], out := [], draws := 1, turn := 0 }

/-- The machine right after reset (rules R57, R281), with nothing in memory and nothing scheduled. -/
def State.reset : State :=
  { port := Port.reset, cfg := ConfigBank.reset, power := Power.reset, vsync := Vsync.reset,
    windows := Vector.replicate Config.nwin Window.created, pend := PalettePending.reset,
    shadow := EngineRegs.zero, hwwrcnt := 0, frame := 0, engine := Engine.lost 0, env := Platform.initial }

/-! ### Why a step can stop -/

/-- Reasons for which the machine stops. -/
inductive Fault
  /-- Raised by `step` alone, when STATUS.FAULT is set (an earlier access to the gated engine domain at `offset`) and
  nothing is scheduled: no agent of the block has a step and only reset leaves the state (rule R256). Safe: the spec
  gives the block no step either. -/
  | gatedAccess (offset : Nat)
deriving DecidableEq, Repr

/-- Reasons for which the model gives an event or an instruction no step. -/
inductive Refusal
  /-- Raised by `exec` for an instruction that has no meaning yet. Safe. -/
  | notModelled (mnemonic : String)
  /-- Raised by a host access to the register port that is not a 32-bit access at a multiple of 4 below 0x5000: the
  block does not define it and a model has no step for it (rule R77, U2). Safe. -/
  | undefinedAccess (offset : Nat)
  /-- Raised by a host access to an engine-domain offset after the fault: it has no step (rule R256). Safe. -/
  | engineAccessAfterFault (offset : Nat)
  /-- Raised by a host write to SRCCLK while TIMING or RESM is running: the value that the command reads would be
  unspecified between old and new, and a model has no step for it (rule R292, U9). Safe. -/
  | clockWriteInUse
deriving DecidableEq, Repr

end Sys2Proof.Machine
end

