-- ==== Sys2Proof/Machine/Bits.lean ====
section
/-! DEFINITION. Bit fields of a 32-bit word (rule R7) and the numbers that are packed into one. -/

namespace Sys2Proof.Machine

/-- `w[hi:lo]`, the unsigned field of `w` from bit `hi` down to bit `lo`, both inclusive (rule R7). -/
def bits (w : Word) (hi lo : Nat) : Nat := (w.toNat >>> lo) % 2 ^ (hi - lo + 1)

/-- `w[n]`, one bit (rule R7). -/
def bit (w : Word) (n : Nat) : Bool := w.getLsbD n

/-- The word whose only 1 is bit `n`: `1 << n` (files 41 and 42: `bit(i)`). -/
def oneHot (n : Nat) : Word := 1#32 <<< n

/-- A word from an exact number below 2^32. -/
def word (n : Nat) : Word := BitVec.ofNat 32 n

/-- A flag as a word: 1 or 0. -/
def flagWord (b : Bool) : Word := if b then 1 else 0

/-- A byte of the word's bits [hi:hi-7], as a colour component (rules R49, R74). -/
def byteAt (w : Nat) (lo : Nat) : Byte := BitVec.ofNat 8 (w >>> lo)

/-- A vector of flags as a word, flag `i` at bit `i` (rule R25). -/
def packFlags (v : PerWindow Bool) : Word :=
  (List.finRange Config.nwin).foldl (fun acc i => acc ||| (flagWord v[i] <<< i.val)) 0

/-- The exact address `n` as the content of a 32-bit address register. Of the addresses that a configured window can
have, only an end address of 2^32 does not fit: its word is 0, the one word that is no other end address (DEDUCED from
rules R31, R85 and R198, log entry 11; `Engine.fetchLimit` reads it back). -/
def addressWord (n : Nat) : Word := word n

end Sys2Proof.Machine
end

