-- ==== Sys2Proof/Machine/Regs.lean ====
section
/-! DEFINITION. The engine registers by id: which exist, their offsets, their order, reading and writing one, and the
fields the block reads (rules R31 to R39). -/

namespace Sys2Proof.Machine

/-- Which window registers exist: address set 1 on windows 0 and 1, blend and key on windows 1 and above (rule R31). -/
def WinReg.presentOn (f : WinReg) (i : Win) : Bool :=
  match f with
  | .start1 => decide (i.val ≤ 1)
  | .end1 => decide (i.val ≤ 1)
  | .blend => decide (1 ≤ i.val)
  | .key => decide (1 ≤ i.val)
  | _ => true

/-- Whether an id names a register of rule R31. -/
def RegId.present : RegId → Bool
  | .win i f => WinReg.presentOn f i
  | _ => true

/-- The window registers in ascending offset. -/
def winRegOrder : List WinReg :=
  [.ctl, .posA, .posB, .start0, .end0, .start1, .end1, .size, .blend, .key]

/-- The offset of a window register from its window's first offset (rule R31). -/
def WinReg.offset : WinReg → Nat
  | .ctl => 0x00
  | .posA => 0x04
  | .posB => 0x08
  | .start0 => 0x0C
  | .end0 => 0x10
  | .start1 => 0x14
  | .end1 => 0x18
  | .size => 0x1C
  | .blend => 0x20
  | .key => 0x24

/-- A register's engine offset, which is its register-id (rules R31, R39). -/
def RegId.offset : RegId → Nat
  | .ctrl => 0x100
  | .timv => 0x104
  | .timh => 0x108
  | .timsize => 0x10C
  | .timpol => 0x110
  | .dither => 0x114
  | .inten => 0x118
  | .palctl => 0x120
  | .alatch => 0x124
  | .win i f => 0x200 + 0x40 * i.val + f.offset

/-- The nine global ids in ascending offset. -/
def globalIds : List RegId :=
  [.ctrl, .timv, .timh, .timsize, .timpol, .dither, .inten, .palctl, .alatch]

/-- The ids of window `i` in ascending offset. -/
def windowIds (i : Win) : List RegId :=
  (winRegOrder.filter (fun f => f.presentOn i)).map (RegId.win i)

/-- The 51 shadowed ids in the order of rule R233: ascending engine offset (rules R39, R233). -/
def shadowIds : List RegId := globalIds ++ (List.finRange Config.nwin).flatMap windowIds

/-- A window register's value. -/
def WinRegs.get (w : WinRegs) : WinReg → Word
  | .ctl => w.ctl
  | .posA => w.posA
  | .posB => w.posB
  | .start0 => w.start0
  | .end0 => w.end0
  | .start1 => w.start1
  | .end1 => w.end1
  | .size => w.size
  | .blend => w.blend
  | .key => w.key

/-- A window's registers with one of them written. -/
def WinRegs.put (w : WinRegs) (f : WinReg) (v : Word) : WinRegs :=
  match f with
  | .ctl => { w with ctl := v }
  | .posA => { w with posA := v }
  | .posB => { w with posB := v }
  | .start0 => { w with start0 := v }
  | .end0 => { w with end0 := v }
  | .start1 => { w with start1 := v }
  | .end1 => { w with end1 := v }
  | .size => { w with size := v }
  | .blend => { w with blend := v }
  | .key => { w with key := v }

/-- REG[r], SHADOW[r] or a snapshot's value of r (rule R8). -/
def EngineRegs.get (e : EngineRegs) : RegId → Word
  | .ctrl => e.ctrl
  | .timv => e.timv
  | .timh => e.timh
  | .timsize => e.timsize
  | .timpol => e.timpol
  | .dither => e.dither
  | .inten => e.inten
  | .palctl => e.palctl
  | .alatch => e.alatch
  | .win i f => e.win[i].get f

/-- The registers with `r <- v`. -/
def EngineRegs.put (e : EngineRegs) (r : RegId) (v : Word) : EngineRegs :=
  match r with
  | .ctrl => { e with ctrl := v }
  | .timv => { e with timv := v }
  | .timh => { e with timh := v }
  | .timsize => { e with timsize := v }
  | .timpol => { e with timpol := v }
  | .dither => { e with dither := v }
  | .inten => { e with inten := v }
  | .palctl => { e with palctl := v }
  | .alatch => { e with alatch := v }
  | .win i f => { e with win := e.win.set i (e.win[i].put f v) }

/-- The value a register takes from a write of `v`: BUFSEL of windows 2 and above is hardwired 0 (rule R31). -/
def RegId.wired (r : RegId) (v : Word) : Word :=
  match r with
  | .win i .ctl => if 2 ≤ i.val then v &&& ~~~0x00000002#32 else v
  | _ => v

/-- CTRL.OUT_EN (rule R32). -/
def EngineRegs.outEn (e : EngineRegs) : Bool := bit e.ctrl 0

/-- INTEN.VSYNC_IE (rule R34). -/
def EngineRegs.vsyncIe (e : EngineRegs) : Bool := bit e.inten 0

/-- PALCTL.PALUPD[i] (rule R36). -/
def EngineRegs.palupd (e : EngineRegs) (i : Win) : Bool := bit e.palctl i.val

/-- ALATCH.ALATCH[i] (rule R37). -/
def EngineRegs.latchOn (e : EngineRegs) (i : Win) : Bool := bit e.alatch i.val

/-- WINCTL[i].BUFSEL, which exists on windows 0 and 1 only (rules R31, R38). -/
def EngineRegs.bufsel (e : EngineRegs) (i : Win) : Bool := decide (i.val ≤ 1) && bit e.win[i].ctl 1

/-- WINCTL[i].WIN_EN (rule R38). -/
def EngineRegs.winEn (e : EngineRegs) (i : Win) : Bool := bit e.win[i].ctl 0

/-- SEL_START[i], the address multiplexer's start address (rule R169). -/
def EngineRegs.selStart (e : EngineRegs) (i : Win) : Word :=
  if e.bufsel i then e.win[i].start1 else e.win[i].start0

/-- SEL_END[i], the address multiplexer's end address (rule R169). -/
def EngineRegs.selEnd (e : EngineRegs) (i : Win) : Word :=
  if e.bufsel i then e.win[i].end1 else e.win[i].end0

end Sys2Proof.Machine
end

