-- ==== Sys2Proof/Machine/Operands.lean ====
section
/-! DEFINITION. Where operands come from: the word's fields and the latched arguments of each command (rules R106 to
R108), and the fields of the CFG bank (rules R26, R131). -/

namespace Sys2Proof.Machine

/-- `x[k]`, the running command's latched copy of ARGk (rules R8, R22). -/
def State.x (s : State) (k : Fin 6) : Word := s.port.latch[k]

/-- The format that an FMT field names; 3 names none (rule R103). -/
def formatOf (fmt : BitVec 2) : Option Format :=
  match fmt.toNat with
  | 0 => some .indexed8
  | 1 => some .rgb565
  | 2 => some .rgb888
  | _ => none

/-- bpp: bytes per pixel (rules R43, R151). -/
def Format.bpp : Format → Nat
  | .indexed8 => 1
  | .rgb565 => 2
  | .rgb888 => 4

/-- The operands of WCFG that lie in ARG0 to ARG3 (rule R107). -/
structure WcfgArgs where
  x : Nat
  y : Nat
  width : Nat
  height : Nat
  vwidth : Nat
  vheight : Nat
  alpha : Byte
  keyR : Byte
  keyG : Byte
  keyB : Byte
deriving DecidableEq, Repr

/-- WCFG's operands from the argument latch (rule R107). -/
def State.wcfgArgs (s : State) : WcfgArgs :=
  { x := bits (s.x 0) 28 16, y := bits (s.x 0) 12 0,
    width := bits (s.x 1) 28 16, height := bits (s.x 1) 12 0,
    vwidth := bits (s.x 2) 29 16, vheight := bits (s.x 2) 13 0,
    alpha := byteAt (s.x 3).toNat 24, keyR := byteAt (s.x 3).toNat 16,
    keyG := byteAt (s.x 3).toNat 8, keyB := byteAt (s.x 3).toNat 0 }

/-- WPAN's y_offset, in lines (rule R108). -/
def State.panArg (s : State) : Nat := (s.x 0).toNat

/-- PSET's value, all 32 bits (rules R108, R183). -/
def State.colourArg (s : State) : Word := s.x 0

/-- VWAIT's timeout, in TICK events (rule R108). -/
def State.timeoutArg (s : State) : Word := s.x 0

/-! ### The CFG bank's fields (rules R26, R131) -/

/-- CFG_RES.XRES [12:0]. -/
def ConfigBank.xres (c : ConfigBank) : Nat := bits c.res 12 0
/-- CFG_RES.YRES [28:16]. -/
def ConfigBank.yres (c : ConfigBank) : Nat := bits c.res 28 16
/-- CFG_HTIM.HFP [9:0]. -/
def ConfigBank.hfp (c : ConfigBank) : Nat := bits c.htim 9 0
/-- CFG_HTIM.HSW [19:10]. -/
def ConfigBank.hsw (c : ConfigBank) : Nat := bits c.htim 19 10
/-- CFG_HTIM.HBP [29:20]. -/
def ConfigBank.hbp (c : ConfigBank) : Nat := bits c.htim 29 20
/-- CFG_VTIM.VFP [9:0]. -/
def ConfigBank.vfp (c : ConfigBank) : Nat := bits c.vtim 9 0
/-- CFG_VTIM.VSW [19:10]. -/
def ConfigBank.vsw (c : ConfigBank) : Nat := bits c.vtim 19 10
/-- CFG_VTIM.VBP [29:20]. -/
def ConfigBank.vbp (c : ConfigBank) : Nat := bits c.vtim 29 20
/-- CFG_REFRESH.REFRESH [15:0]. -/
def ConfigBank.refreshHz (c : ConfigBank) : Nat := bits c.refresh 15 0
/-- CFG_MISC.POL [3:0]. -/
def ConfigBank.pol (c : ConfigBank) : Nat := bits c.misc 3 0
/-- CFG_MISC.DITHER [15:8]. -/
def ConfigBank.ditherSpec (c : ConfigBank) : Nat := bits c.misc 15 8

end Sys2Proof.Machine
end

