-- ==== Sys2Proof/Machine/FrameBuffer.lean ====
section
/-! DEFINITION. What WCFG and WPAN compute: sizes, checks, the allocator's reuse rule, mode codes, blend and key words
(rules R151 to R159, R164, R165). -/

namespace Sys2Proof.Machine

/-- A buffer's size rounded up to whole pages (rules R84, R153). -/
def roundToPage (size : Nat) : Nat := (size + (Config.page - 1)) / Config.page * Config.page

/-- The quantities WCFG computes in s1 (rules R151 to R153, R158). -/
structure Layout where
  lineStride : Nat
  panOffset : Nat
  size : Nat
  length : Nat
  visible : Nat
  half : Nat
deriving DecidableEq, Repr

/-- The layout of a format and a geometry (rules R152, R153). -/
def layoutOf (f : Format) (a : WcfgArgs) : Layout :=
  { lineStride := a.vwidth * f.bpp
    panOffset := (a.vwidth - a.width) * f.bpp
    size := a.vwidth * a.vheight * f.bpp
    length := roundToPage (a.vwidth * a.vheight * f.bpp)
    visible := a.height * (a.vwidth * f.bpp)
    half := roundToPage (a.vwidth * a.vheight * f.bpp) / 2 }

/-- The geometry checks c6 to c11 of rule R154 for window `i`, in order; every one reports InvalidGeometry. -/
def geometryFits (c : ConfigBank) (i : Win) (db : Bool) (a : WcfgArgs) (l : Layout) : Bool :=
  decide (1 ≤ a.width) && decide (1 ≤ a.height)
    && decide (a.x + a.width ≤ c.xres) && decide (a.y + a.height ≤ c.yres)
    && decide (a.width ≤ a.vwidth) && decide (a.height ≤ a.vheight)
    && decide (l.lineStride ≤ 65535)
    && decide (l.length ≤ c.fbCap[i].toNat) && decide (c.fbBase[i].toNat + l.length ≤ Config.memorySize)
    && (!db || decide (l.visible ≤ l.half))

/-- The checks c2 to c11 of rule R154 for a window below NWIN, in order; the format and the layout when all hold. -/
def wcfgCheck (c : ConfigBank) (i : Win) (fmt : BitVec 2) (db bl : Bool) (a : WcfgArgs) :
    Except Result (Format × Layout) :=
  if bl && decide (i.val = 0) then .error .invalidWindow
  else if db && decide (2 ≤ i.val) then .error .invalidWindow
  else match formatOf fmt with
    | none => .error .invalidFormat
    | some f =>
      if bl && decide (f = .indexed8) then .error .invalidFormat
      else if geometryFits c i db a (layoutOf f a) then .ok (f, layoutOf f a)
      else .error .invalidGeometry

/-- Whether the window's buffer is reused: one of the same length under the same format (rule R155). -/
def Window.reuses (d : Window) (f : Format) (length : Nat) : Bool :=
  match d.buffer with
  | some b => decide (b.length = length) && decide (d.format = some f)
  | none => false

/-- `mode(fmt)`: the bit-depth and byte-swap code in WINCTL bits [7:2] (rule R156). -/
def Format.mode : Format → Word
  | .indexed8 => 0x0000004C
  | .rgb565 => 0x00000094
  | .rgb888 => 0x0000002C

/-- The blend record of x[3] (rules R46, R107). -/
def WcfgArgs.blendRecord (a : WcfgArgs) : Blend :=
  { keyR := a.keyR, keyG := a.keyG, keyB := a.keyB, alpha := a.alpha }

/-- WINBLEND's word: KEY_EN, ALPHA_EN and the alpha level, or 0 without a blend (rule R159). -/
def blendWord (b : Option Blend) : Word :=
  match b with
  | none => 0
  | some b => (word b.alpha.toNat <<< 8) ||| 0x00000003#32

/-- WINKEY's word: 5-6-5 packing with marker bits for RGB565, 8-8-8 packing for RGB888, 0 without a blend (rule R159).
A blend on Indexed8 is refused by check c5, so its line is never read. -/
def keyWord (f : Format) (b : Option Blend) : Word :=
  match b with
  | none => 0
  | some b =>
    match f with
    | .rgb565 =>
        (word (b.keyR.toNat &&& 0x1F) <<< 19) ||| 0x00070000#32
          ||| (word (b.keyG.toNat &&& 0x3F) <<< 10) ||| 0x00000300#32
          ||| (word (b.keyB.toNat &&& 0x1F) <<< 3) ||| 0x00000007#32
    | .rgb888 => (word b.keyR.toNat <<< 16) ||| (word b.keyG.toNat <<< 8) ||| word b.keyB.toNat
    | .indexed8 => (word b.keyR.toNat <<< 16) ||| (word b.keyG.toNat <<< 8) ||| word b.keyB.toNat

/-- The descriptor that WCFG s11 stores (rule R158). -/
def windowRecord (f : Format) (a : WcfgArgs) (l : Layout) (base : Word) (se db bl pd : Bool) : Window :=
  { format := some f, x := a.x, y := a.y, width := a.width, height := a.height,
    vwidth := a.vwidth, vheight := a.vheight, lineStride := l.lineStride, panOffset := l.panOffset, yOffset := 0,
    buffer := some { base := base, length := l.length, double := db, committed := false },
    enabled := se, blend := if bl then some a.blendRecord else none, palDefer := pd }

/-- The visible span of a configured window (rules R153, R165). -/
def Window.visible (d : Window) : Nat := d.height * d.lineStride

/-- What a pan computes: the new start and end address, exact, and the half the start lies in (rule R166). -/
structure PanPlan where
  start : Nat
  stop : Nat
  half : Bool
deriving DecidableEq, Repr

/-- The checks c2 and c3 of rule R165 and the addresses of rule R166. -/
def Window.panPlan (d : Window) (yOffset : Nat) : Option PanPlan :=
  match d.buffer with
  | none => none
  | some b =>
    if yOffset * d.lineStride + d.visible ≤ b.length then
      some
        { start := b.base.toNat + yOffset * d.lineStride
          stop := b.base.toNat + yOffset * d.lineStride + d.visible
          half := b.double && decide (b.length / 2 ≤ yOffset * d.lineStride) }
    else none

end Sys2Proof.Machine
end

