-- ==== Sys2Proof/Machine/Flags.lean ====
section
/-! DEFINITION. The words that gather flags and fields for the host: STATUS, PWRSTAT, INTMASK, WAITSTAT, the window
descriptor's WD_FLAGS, PALDIRTY and PALREQ (rules R24 to R27, R41, R47, R216, R250). -/

namespace Sys2Proof.Machine

/-- The result codes' numbers (rule R250). -/
def Result.code : Result → Nat
  | .ok => 0
  | .invalidWindow => 1
  | .invalidGeometry => 2
  | .invalidFormat => 3
  | .invalidTiming => 4
  | .invalidPan => 5
  | .powerSequenceFailed => 7
  | .notReady => 14
  | .illegalCommand => 15

/-- The result code Timeout, which only WAITSTAT[s].WRESULT reports (rules R216, R250). -/
def timeoutCode : Nat := 6

/-- PWRSTAT.PSTATE's codes (rule R27). -/
def PState.code : PState → Nat
  | .active => 0
  | .suspending => 1
  | .suspended => 2
  | .resuming => 3

/-- WAITSTAT.WSTATE's codes (rule R216). -/
def WaitState.code : WaitState → Nat
  | .idle => 0
  | .waiting => 1
  | .done => 2
  | .timedOut => 3

/-- The format codes of WD_FLAGS and of FMT (rules R47, R103). -/
def Format.code : Format → Nat
  | .indexed8 => 0
  | .rgb565 => 1
  | .rgb888 => 2

/-- Whether the sequencer is running a command: STATUS.BUSY (rules R23, R24). -/
def Csq.busy : Csq → Bool
  | .idle => false
  | .accepted => true
  | .running _ => true

/-- STATUS.BUSY (rule R24). -/
def State.busy (s : State) : Bool := s.port.csq.busy

/-- STATUS.FAULT (rules R24, R256). -/
def State.faulted (s : State) : Bool := s.port.fault.isSome

/-- STATUS (rule R24): BUSY, FAULT, OVERRUN, CONFIGURED and RESULT [7:4]. -/
def State.statusWord (s : State) : Word :=
  flagWord s.busy ||| (flagWord s.faulted <<< 1) ||| (flagWord s.port.overrun <<< 2)
    ||| (flagWord s.port.configured <<< 3) ||| (word s.port.result.code <<< 4)

/-- PWRSTAT (rule R27): PSTATE [1:0], BUSCLK_ON [4], PIXCLK_ON [5]. -/
def Power.statWord (p : Power) : Word :=
  word p.pstate.code ||| (flagWord p.busclkOn <<< 4) ||| (flagWord p.pixclkOn <<< 5)

/-- Whether the vsync interrupt is masked (rule R41). -/
def Vsync.masked (v : Vsync) : Bool := decide (0 < v.maskdepth)

/-- INTMASK (rules R26, R41). -/
def Vsync.maskWord (v : Vsync) : Word := flagWord v.masked

/-- WAITSTAT[s] (rule R216): WSTATE [1:0] and WRESULT [7:4], which is Timeout exactly in the state TimedOut. -/
def Waiter.statWord (w : Waiter) : Word :=
  word w.state.code ||| (word (if w.state = .timedOut then timeoutCode else 0) <<< 4)

/-- WD_FLAGS[i] (rule R47). -/
def Window.flagsWord (d : Window) : Word :=
  flagWord d.buffer.isSome ||| (flagWord d.enabled <<< 1)
    ||| (word ((d.format.map Format.code).getD 0) <<< 2)
    ||| (flagWord ((d.buffer.map Buffer.double).getD false) <<< 4)
    ||| (flagWord d.blend.isSome <<< 5) ||| (flagWord d.palDefer <<< 6)
    ||| (flagWord ((d.buffer.map Buffer.committed).getD false) <<< 7)
    ||| (flagWord d.format.isSome <<< 8)

/-- WD_BUFBASE[i]: the buffer's base or 0 (rule R47). -/
def Window.bufbaseWord (d : Window) : Word := (d.buffer.map Buffer.base).getD 0

/-- WD_BUFLEN[i]: the buffer's length or 0 (rule R47). -/
def Window.buflenWord (d : Window) : Word := word ((d.buffer.map Buffer.length).getD 0)

/-- WD_STRIDE[i]: pan_offset in the high and line_stride in the low 16 bits (rule R47). -/
def Window.strideWord (d : Window) : Word := (word d.panOffset <<< 16) ||| (word d.lineStride &&& 0x0000FFFF#32)

/-- WD_YOFF[i]: y_offset (rule R47). -/
def Window.yoffWord (d : Window) : Word := word d.yOffset

/-- VSYNC_IRQ, the block's interrupt output line: VSYNC_PEND and not masked (rule R258). -/
def State.vsyncIrq (s : State) : Bool := s.engine.intpend && !s.vsync.masked

end Sys2Proof.Machine
end

