-- ==== Sys2Proof/Machine/Memory.lean ====
section
/-! DEFINITION. Frame-buffer memory: 2^32 bytes, held as the bytes written so far in one canonical form, addresses
strictly rising (rules R70 to R72, R87). A byte nothing has written has no stored value and reads as a free value. -/

namespace Sys2Proof.Machine

/-- Every address from `lo` up, strictly rising and inside the 2^32 bytes. -/
def Memory.risingFrom : Nat → Memory → Bool
  | _, [] => true
  | lo, (a, _) :: m => decide (lo ≤ a) && decide (a < Config.memorySize) && Memory.risingFrom (a + 1) m

/-- The canonical form: addresses strictly rising, each below 2^32. An unlisted address has no stored value, so no
entry can equal what an unlisted address holds. -/
def Memory.wf (m : Memory) : Bool := Memory.risingFrom 0 m

/-- The stored byte at address `a`, `none` when nothing has written it. -/
def Memory.lookup : Memory → Nat → Option Byte
  | [], _ => none
  | (a', b) :: m, a => if a = a' then some b else Memory.lookup m a

/-- The memory with byte `b` stored at address `a`, keeping the addresses rising. -/
def Memory.insert : Memory → Nat → Byte → Memory
  | [], a, b => [(a, b)]
  | (a', b') :: m, a, b =>
    if a < a' then (a, b) :: (a', b') :: m
    else if a = a' then (a, b) :: m
    else (a', b') :: Memory.insert m a b

/-- MEM[a mod 2^32], the `mod` of rule R71: the latest byte written there, else the byte's initial content, a free value
(rules R70, R87; U19). -/
def Memory.read (m : Memory) (a : Nat) : Byte :=
  (Memory.lookup m (a % Config.memorySize)).getD (Config.freeMemoryByte (a % Config.memorySize))

/-- MEM[a] <- b for an address below 2^32 (rule R72). At 2^32 and above, where rule R72 states neither a `mod` nor another
meaning, the byte goes to `a mod 2^32`: DESIGN CHOICE, log entry 27. No write of the block gets there (rule R85). -/
def Memory.write (m : Memory) (a : Nat) (b : Byte) : Memory := Memory.insert m (a % Config.memorySize) b

/-- `MemRead(addr, n)`: the byte at the lowest address is the least significant (rule R71). -/
def Memory.readLE (m : Memory) (addr : Nat) : Nat → Nat
  | 0 => 0
  | n + 1 => (Memory.read m addr).toNat + 256 * Memory.readLE m (addr + 1) n

/-- `MemWrite(addr, n, v)`: byte k of `v` at `addr + k`, k ascending (rule R72). -/
def Memory.writeLE (m : Memory) (addr : Nat) : Nat → Nat → Memory
  | 0, _ => m
  | n + 1, v => Memory.writeLE (Memory.write m addr (BitVec.ofNat 8 v)) (addr + 1) n (v / 256)

/-- The zero bytes that a whole zero-fill writes: `n` of them from `addr`, in ascending order (rule R157). -/
def Memory.zeroed (m : Memory) (addr : Nat) : Nat → Memory
  | 0 => m
  | n + 1 => Memory.zeroed (Memory.write m addr 0) (addr + 1) n

/-- The first address of an aligned unit (rule R87). -/
def MemUnit.address : MemUnit → Nat
  | .byte n => n.toNat
  | .half n => 2 * n.toNat
  | .word n => 4 * n.toNat

/-- The bytes of an aligned unit (rule R87). -/
def MemUnit.bytes : MemUnit → Nat
  | .byte _ => 1
  | .half _ => 2
  | .word _ => 4

end Sys2Proof.Machine
end

