-- ==== Sys2Proof/Machine/Ops.lean ====
section
/-! DEFINITION. The shared operations on the state: the end of a command, the fault, the interrupt mask, the two halves
of the shadowed write, the palette write, the frame-start load, the loss of the engine domain, the entry into and the
return from the interrupt handler, and reset. -/

namespace Sys2Proof.Machine

/-! ### The end of a command -/

/-- `return E` and `return OK(v)` (rule R102): RESULT, RETVAL, BUSY <- 0 and CSQ <- Idle in one micro-step. -/
def State.finish (s : State) (r : Result) (v : Word) : State :=
  { s with port := { s.port with result := r, retval := v, csq := .idle } }

/-! ### The fault -/

/-- `raise GatedAccess(r)` (rule R256): STATUS.FAULT <- 1 and nothing else. The running command, MASKDEPTH and RESULT
keep what they held. Only reset is the return from it (`State.resetStep`). -/
def State.raise (s : State) (offset : Nat) : State :=
  { s with port := { s.port with fault := some offset } }

/-! ### The interrupt mask (rule R41) -/

/-- MASKDEPTH <- MASKDEPTH + 1. -/
def State.mask (s : State) : State :=
  { s with vsync := { s.vsync with maskdepth := s.vsync.maskdepth + 1 } }

/-- MASKDEPTH <- MASKDEPTH - 1. -/
def State.unmask (s : State) : State :=
  { s with vsync := { s.vsync with maskdepth := s.vsync.maskdepth - 1 } }

/-! ### The frame-start load (rules R170, R190, R196, R260) -/

/-- ACT_START and ACT_END from the address multiplexers of the windows whose latch is on, ACTPAL from PALRAM of the
windows whose palette is not being updated, CUR <- (0, 0): one step. -/
def Engine.frameStartLoad (e : Engine) : Engine :=
  { e with
    actStart := Vector.ofFn fun i : Win => if e.regs.latchOn i then e.regs.selStart i else e.actStart[i]
    actEnd := Vector.ofFn fun i : Win => if e.regs.latchOn i then e.regs.selEnd i else e.actEnd[i]
    actpal := Vector.ofFn fun i : Win => if e.regs.palupd i then e.actpal[i] else e.palram[i]
    cur := .at 0 0 }

/-! ### The shadowed write (rule R40) -/

/-- What the hardware does when OUT_EN changes from `before` to its value in the engine: a rise performs the
frame-start load (rules R142, R170, R190), a fall sets CUR <- Idle (rule R196) and VSYNC_PEND <- 0. That a fall clears
VSYNC_PEND is DEDUCED (log entry 29): rule R261 enters the handler on a VSYNC_PEND of 1 whatever OUT_EN is, and rules
R143, R188, R222 and R291 (a) have no handler run while output is off; both hold if none is pending then. -/
def Engine.outputEdge (e : Engine) (before : Bool) : Engine :=
  if e.regs.outEn then (if before then e else e.frameStartLoad)
  else (if before then { e with cur := .idle, intpend := false } else e)

/-- REG[r] <- v with the effect of an OUT_EN edge. -/
def Engine.writeReg (e : Engine) (r : RegId) (v : Word) : Engine :=
  Engine.outputEdge { e with regs := e.regs.put r v } e.regs.outEn

/-- The value that `RegWrite` gives register `r` when it is built from the shadow: (SHADOW[r] AND keep) OR set
(rule R40). -/
def State.composed (s : State) (r : RegId) (keep set : Word) : Word :=
  r.wired ((s.shadow.get r &&& keep) ||| set)

/-- `RegWrite` w1: MASKDEPTH + 1 and SHADOW[r] <- v. -/
def State.writeShadow (s : State) (r : RegId) (v : Word) : State :=
  { s.mask with shadow := s.shadow.put r v }

/-- `RegWrite` w2 with the bus clock on: REG[r] <- v and HWWRCNT + 1. -/
def State.writeHardware (s : State) (r : RegId) (v : Word) : State :=
  { s with engine := s.engine.writeReg r v, hwwrcnt := s.hwwrcnt + 1 }

/-- `RegWrite(r, v)` with the bus clock on and nothing between its three micro-steps (rule R40). -/
def State.regWrite (s : State) (r : RegId) (v : Word) : State :=
  ((s.writeShadow r v).writeHardware r v).unmask

/-! ### The palette write (rule R186) -/

/-- PALRAM[i][k] <- v in the engine domain. -/
def Engine.writePalette (e : Engine) (i : Win) (k : Fin Config.paletteSize) (v : Word) : Engine :=
  { e with palram := e.palram.set i { e.palram[i] with words := e.palram[i].words.set k (some v) } }

/-- `PalWrite(i, k, v)` with the bus clock on: performed and counted while PALUPD[i] = 1, dropped otherwise. -/
def State.palWrite (s : State) (i : Win) (k : Fin Config.paletteSize) (v : Word) : State :=
  if s.engine.regs.palupd i then
    { s with engine := s.engine.writePalette i k v, hwwrcnt := s.hwwrcnt + 1 }
  else s

/-! ### Gating (rule R236) -/

/-- The clocks off and the engine domain lost, in one micro-step (rules R232 s6, R236, R237). -/
def State.gateClocks (s : State) : State :=
  { s with
    power := { s.power with busclkOn := false, pixclkOn := false }
    engine := Engine.lost s.env.draws
    env := { s.env with draws := s.env.draws + 1 } }

/-! ### The interrupt (rules R258 to R262) -/

/-- The handler's entry condition but for the fault bit: the list of rule R261. In every state that a run reaches
VSYNC_PEND is 0 while output is off (`Engine.outputEdge`, log entry 29) or the source disabled (rules R34, R259), so then
no handler runs (rules R143, R188, R222, R291 (a)). -/
def State.handlerMayEnter (s : State) : Bool :=
  decide (s.vsync.handler = .idle) && s.engine.intpend && decide (s.vsync.maskdepth = 0) && s.power.busclkOn

/-- h1, the entry into the handler: IH <- Running with the micro-steps h2 to h5 to take, VSYNC_PEND <- 0. Nothing is
saved and no mode changes (rule R262). -/
def State.handlerEnter (s : State) : State :=
  { s with
    vsync := { s.vsync with
      handler := .running
        ([.countVsync, .wakeWaiters] ++ (List.finRange Config.nwin).map MicroOp.serveFlush ++ [.handlerReturn]) }
    engine := { s.engine with intpend := false } }

/-- h5, the return from the handler: IH <- Idle (rule R262). -/
def State.handlerLeave (s : State) : State :=
  { s with vsync := { s.vsync with handler := .idle } }

/-- h2: VSCOUNT <- (VSCOUNT + 1) mod 2^32 (rules R217, R262). -/
def State.countVsync (s : State) : State :=
  { s with vsync := { s.vsync with vscount := s.vsync.vscount + 1 } }

/-- What h3 does to one slot: a Waiting slot is Done with the count (rule R219). -/
def Waiter.wake (w : Waiter) (count : Word) : Waiter :=
  if w.state = .waiting then { w with state := .done, val := count } else w

/-- h3: wakes every Waiting slot (rules R219, R262). -/
def State.wakeWaiters (s : State) : State :=
  { s with vsync := { s.vsync with waiters := s.vsync.waiters.map (fun w => w.wake s.vsync.vscount) } }

/-- What TICK does to one slot: a Waiting slot with no ticks left times out, else it loses one (rule R220). -/
def Waiter.tick (w : Waiter) (count : Word) : Waiter :=
  if w.state = .waiting then
    (if w.rem = 0 then { w with state := .timedOut, val := count } else { w with rem := w.rem - 1 })
  else w

/-- TICK: every waiter slot and the settle counter, in one step (rules R220, R235). -/
def State.tick (s : State) : State :=
  { s with
    vsync := { s.vsync with waiters := s.vsync.waiters.map (fun w => w.tick s.vsync.vscount) }
    power := { s.power with settle := s.power.settle - 1 } }

/-! ### The frame-start event (rule R260) -/

/-- When the timing generator may start a frame, but for the fault bit. -/
def State.frameMayStart (s : State) : Bool :=
  s.engine.regs.outEn && s.power.pixclkOn && s.power.busclkOn && decide (s.engine.cur = .idle)

/-- FRAME + 1, the frame-start load, and VSYNC_PEND <- 1 when the source is enabled. -/
def State.frameStart (s : State) : State :=
  { s with
    frame := s.frame + 1
    engine := { s.engine.frameStartLoad with intpend := s.engine.intpend || s.engine.regs.vsyncIe } }

/-! ### Outputs -/

/-- Emits an output event (rules R195, R234). -/
def State.emit (s : State) (o : Output) : State :=
  { s with env := { s.env with out := o :: s.env.out } }

/-! ### Reset (rules R280 to R282) -/

/-- The reset step: every register and every piece of hidden state as after reset; memory, the platform's input, the
choices still to come and the outputs so far are not the block's and stay; the palette memories are drawn anew. -/
def State.resetStep (s : State) : State :=
  { State.reset with
    engine := Engine.lost s.env.draws
    env := { s.env with draws := s.env.draws + 1 } }

end Sys2Proof.Machine
end

