-- ==== Sys2Proof/Machine/Compositor.lean ====
section
/-! DEFINITION. The window compositor and the scan-out step (rules R74, R195 to R209). -/

namespace Sys2Proof.Machine

/-- The colour below window 0 (rules R6, R203). -/
def background : Rgb := { r := 0, g := 0, b := 0 }

/-- The format that WINCTL's BPPMODE [5:2] names; any other code makes the window cover nothing (rule R198). -/
def modeFormat (ctl : Word) : Option Format :=
  match bits ctl 5 2 with
  | 0x3 => some .indexed8
  | 0x5 => some .rgb565
  | 0xB => some .rgb888
  | _ => none

/-- X_TL, X_BR, Y_TL, Y_BR of window `i` (rules R31, R197). -/
def WinRegs.covers (w : WinRegs) (px py : Nat) : Bool :=
  bit w.ctl 0
    && decide (bits w.posA 27 16 ≤ px) && decide (px ≤ bits w.posB 27 16)
    && decide (bits w.posA 11 0 ≤ py) && decide (py ≤ bits w.posB 11 0)

/-- The byte address of the window's local pixel (lx, ly) (rules R74, R198). -/
def Engine.pixelAddress (e : Engine) (i : Win) (f : Format) (lx ly : Nat) : Nat :=
  (e.actStart[i].toNat + ly * bits e.regs.win[i].size 15 0 + lx * f.bpp) % Config.memorySize

/-- ACT_END as the exact address of rule R198. The word 0 beside a start address other than 0 is the end address 2^32 of
a buffer that ends with the address space (rules R85, R154 c10; log entry 11); latches that nothing has loaded since
reset or re-clocking are both 0 (rule R50), and their end is 0. -/
def Engine.fetchLimit (e : Engine) (i : Win) : Nat :=
  if e.actEnd[i] = 0 ∧ e.actStart[i] ≠ 0 then Config.memorySize else e.actEnd[i].toNat

/-- The fetch of one pixel: `bpp` bytes of memory while they lie before ACT_END, a free value past it (rule R198). -/
def State.fetchPixel (s : State) (i : Win) (f : Format) (lx ly : Nat) : Nat :=
  if s.engine.pixelAddress i f lx ly + f.bpp ≤ s.engine.fetchLimit i then
    s.env.mem.readLE (s.engine.pixelAddress i f lx ly) f.bpp
  else (Config.freePixel s.env.draws i.val).toNat % 256 ^ f.bpp

/-- The word that a palette memory holds at index `k` (rules R49, R51): written, or drawn. -/
def PaletteMem.value (p : PaletteMem) (i : Win) (k : Fin Config.paletteSize) : Word :=
  p.words[k].getD (Config.freePaletteWord p.gen i.val k.val)

/-- A 5-bit component as 8 bits, by bit replication (rule R199). -/
def expand5 (c : Nat) : Byte := BitVec.ofNat 8 ((c <<< 3) ||| (c >>> 2))

/-- A 6-bit component as 8 bits, by bit replication (rule R199). -/
def expand6 (c : Nat) : Byte := BitVec.ofNat 8 ((c <<< 2) ||| (c >>> 4))

/-- R5 = h[15:11] (rule R74). -/
def red5 (h : Nat) : Nat := (h >>> 11) % 32
/-- G6 = h[10:5] (rule R74). -/
def green6 (h : Nat) : Nat := (h >>> 5) % 64
/-- B5 = h[4:0] (rule R74). -/
def blue5 (h : Nat) : Nat := h % 32

/-- The colour of a 0x00RRGGBB word; bits [31:24] are ignored (rules R49, R199, R200). -/
def rgbOf (v : Nat) : Rgb := { r := byteAt v 16, g := byteAt v 8, b := byteAt v 0 }

/-- The colour of a fetched pixel: direct for RGB565 and RGB888, through ACTPAL for Indexed8 (rules R199, R200). -/
def Engine.decodePixel (e : Engine) (i : Win) (f : Format) (v : Nat) : Rgb :=
  match f with
  | .indexed8 => rgbOf (e.actpal[i].value i (Fin.ofNat Config.paletteSize v)).toNat
  | .rgb565 => { r := expand5 (red5 v), g := expand6 (green6 v), b := expand5 (blue5 v) }
  | .rgb888 => rgbOf v

/-- The colour-key comparison: at 5-6-5 widths for RGB565, on the colour for the other formats (rule R201). -/
def keyMatches (key : Word) (f : Format) (v : Nat) (src : Rgb) : Bool :=
  match f with
  | .rgb565 =>
      decide (red5 v = bits key 23 19) && decide (green6 v = bits key 15 10) && decide (blue5 v = bits key 7 3)
  | .rgb888 => decide (src = rgbOf key.toNat)
  | .indexed8 => decide (src = rgbOf key.toNat)

/-- One component of the alpha blend: (src × a + dst × (255 - a)) div 255 (rule R206). -/
def blendComponent (src dst a : Byte) : Byte :=
  BitVec.ofNat 8 ((src.toNat * a.toNat + dst.toNat * (255 - a.toNat)) / 255)

/-- The alpha blend of a colour over another (rule R206). -/
def blendOver (src dst : Rgb) (a : Byte) : Rgb :=
  { r := blendComponent src.r dst.r a, g := blendComponent src.g dst.g a, b := blendComponent src.b dst.b a }

/-- What a covering window's pixel does to the colour composed so far (rules R201 to R207). -/
def WinRegs.layer (w : WinRegs) (i : Win) (f : Format) (v : Nat) (src acc : Rgb) : Rgb :=
  if i.val = 0 then src
  else if bit w.blend 0 && keyMatches w.key f v src then acc
  else if bit w.blend 1 then blendOver src acc (byteAt w.blend.toNat 8)
  else src

/-- One window's turn in `Compose` (rule R207). -/
def State.composeWindow (s : State) (px py : Nat) (acc : Rgb) (i : Win) : Rgb :=
  match modeFormat s.engine.regs.win[i].ctl with
  | none => acc
  | some f =>
    if s.engine.regs.win[i].covers px py then
      s.engine.regs.win[i].layer i f
        (s.fetchPixel i f (px - bits s.engine.regs.win[i].posA 27 16) (py - bits s.engine.regs.win[i].posA 11 0))
        (s.engine.decodePixel i f
          (s.fetchPixel i f (px - bits s.engine.regs.win[i].posA 27 16) (py - bits s.engine.regs.win[i].posA 11 0)))
        acc
    else acc

/-- `Compose(px, py)`: the windows in ascending index over the background (rules R203, R207). -/
def State.compose (s : State) (px py : Nat) : Rgb :=
  (List.finRange Config.nwin).foldl (s.composeWindow px py) background

/-- W, the panel's width (rule R195). -/
def Engine.panelWidth (e : Engine) : Nat := bits e.regs.timsize 11 0 + 1

/-- H, the panel's height (rule R195). -/
def Engine.panelHeight (e : Engine) : Nat := bits e.regs.timsize 27 16 + 1

/-- The cursor after pixel (px, py) in raster order (rule R196). -/
def Engine.nextCursor (e : Engine) (px py : Nat) : Cursor :=
  if px + 1 < e.panelWidth then .at (px + 1) py
  else if py + 1 < e.panelHeight then .at 0 (py + 1)
  else .idle

/-- When the scan-out unit may step, but for the fault bit and the cursor (rule R196). -/
def State.scanEnabled (s : State) : Bool :=
  s.engine.regs.outEn && s.power.pixclkOn && s.power.busclkOn

/-- The scan-out step at (px, py): emit the pixel and move the cursor (rule R196). A draw number is used up. -/
def State.scanPixel (s : State) (px py : Nat) : State :=
  { s with
    engine := { s.engine with cur := s.engine.nextCursor px py }
    env := { s.env with
      out := .pixel s.frame px py (s.compose px py) :: s.env.out
      draws := s.env.draws + 1 } }

end Sys2Proof.Machine
end

