-- ==== Sys2Proof/Machine/HostPort.lean ====
section
/-! DEFINITION. The register port: the address map, host reads and writes, the doorbell, and host accesses to
frame-buffer memory (rules R21, R26, R31, R76 to R79, R87, R101, R256). -/

namespace Sys2Proof.Machine

/-! ### The address map -/

/-- The domain of an offset below 0x5000 (rule R21). -/
inductive PortDomain
  | control
  | engine
  | reserved
deriving DecidableEq, Repr

/-- Which domain an offset lies in (rule R21). -/
def domainOf (offset : Nat) : PortDomain :=
  if offset ≤ 0x00FF then .control
  else if offset ≤ 0x03FF then .engine
  else if 0x0800 ≤ offset ∧ offset ≤ 0x08FF then .control
  else if 0x1000 ≤ offset ∧ offset ≤ 0x2FFF then .engine
  else if 0x4000 ≤ offset ∧ offset ≤ 0x4FFF then .control
  else .reserved

/-- The window register at an offset from its window's first offset. -/
def WinReg.ofOffset (d : Nat) : Option WinReg := winRegOrder.find? (fun f => f.offset == d)

/-- The shadowed register at an engine offset, if rule R31 names one there. -/
def RegId.ofOffset (offset : Nat) : Option RegId := shadowIds.find? (fun r => r.offset == offset)

/-- The window that element `n` of an eight-element register array belongs to; there is none from NWIN on (rule
R26). -/
def windowIndex (n : Nat) : Option Win := if h : n < Config.nwin then some ⟨n, h⟩ else none

/-- The carve-out register at an offset 0x0A0 + 8i or 0x0A4 + 8i, given the distance from 0x0A0 (rule R26). -/
def carveOutReg (d : Nat) : Option ControlReg :=
  match windowIndex (d / 8) with
  | none => none
  | some i => if d % 8 = 0 then some (.fbBase i) else if d % 8 = 4 then some (.fbCap i) else none

/-- The descriptor register at 0x800 + d (rules R26, R47). -/
def descriptorReg (d : Nat) : Option ControlReg :=
  match windowIndex (d / 0x20) with
  | none => none
  | some i =>
    match d % 0x20 with
    | 0x00 => some (.wdFlags i)
    | 0x04 => some (.wdBufbase i)
    | 0x08 => some (.wdBuflen i)
    | 0x0C => some (.wdStride i)
    | 0x10 => some (.wdYoff i)
    | _ => none

/-- The register at one of the single offsets of rule R26. -/
def plainControlReg (offset : Nat) : Option ControlReg :=
  match offset with
  | 0x000 => some .cmd
  | 0x004 => some .status
  | 0x008 => some .retval
  | 0x010 => some (.arg 0)
  | 0x014 => some (.arg 1)
  | 0x018 => some (.arg 2)
  | 0x01C => some (.arg 3)
  | 0x020 => some (.arg 4)
  | 0x024 => some (.arg 5)
  | 0x030 => some .pwrstat
  | 0x034 => some .intmask
  | 0x038 => some .vscount
  | 0x03C => some .hwwrcnt
  | 0x040 => some (.waitstat 0)
  | 0x044 => some (.waitstat 1)
  | 0x048 => some (.waitstat 2)
  | 0x04C => some (.waitstat 3)
  | 0x050 => some (.waitval 0)
  | 0x054 => some (.waitval 1)
  | 0x058 => some (.waitval 2)
  | 0x05C => some (.waitval 3)
  | 0x060 => some .srcclk
  | 0x064 => some .paldirty
  | 0x068 => some .palreq
  | 0x080 => some .cfgRes
  | 0x084 => some .cfgVres
  | 0x088 => some .cfgHtim
  | 0x08C => some .cfgVtim
  | 0x090 => some .cfgRefresh
  | 0x094 => some .cfgMisc
  | 0x098 => some .cfgPhys
  | _ => none

/-- The control-domain register at an offset; `none` is an offset that names no register, which reads 0 and drops
writes (rules R21, R26). -/
def ControlReg.ofOffset (offset : Nat) : Option ControlReg :=
  if 0x4000 ≤ offset then (RegId.ofOffset (offset - 0x4000)).map ControlReg.shadow
  else if 0x0800 ≤ offset then descriptorReg (offset - 0x0800)
  else if 0x00A0 ≤ offset then (if offset ≤ 0x00DF then carveOutReg (offset - 0x00A0) else none)
  else plainControlReg offset

/-- The palette word at 0x1000 + d (rule R31). -/
def paletteReg (d : Nat) : Option EngineReg :=
  match windowIndex (d / 0x400) with
  | none => none
  | some i => some (.palram i (Fin.ofNat Config.paletteSize (d % 0x400 / 4)))

/-- The engine-domain register at an offset; `none` names no register (rule R31). -/
def EngineReg.ofOffset (offset : Nat) : Option EngineReg :=
  if 0x1000 ≤ offset then paletteReg (offset - 0x1000)
  else if offset = 0x11C then some .intpend
  else (RegId.ofOffset offset).map EngineReg.reg

/-! ### Reads (rule R78) -/

/-- The value of a control-domain register (rule R26). -/
def State.readControl (s : State) : ControlReg → Word
  | .cmd => s.port.cmd
  | .status => s.statusWord
  | .retval => s.port.retval
  | .arg k => s.port.args[k]
  | .pwrstat => s.power.statWord
  | .intmask => s.vsync.maskWord
  | .vscount => s.vsync.vscount
  | .hwwrcnt => s.hwwrcnt
  | .waitstat k => s.vsync.waiters[k].statWord
  | .waitval k => s.vsync.waiters[k].val
  | .srcclk => s.cfg.srcclk
  | .paldirty => packFlags s.pend.dirty
  | .palreq => packFlags s.pend.request
  | .cfgRes => s.cfg.res
  | .cfgVres => s.cfg.vres
  | .cfgHtim => s.cfg.htim
  | .cfgVtim => s.cfg.vtim
  | .cfgRefresh => s.cfg.refresh
  | .cfgMisc => s.cfg.misc
  | .cfgPhys => s.cfg.phys
  | .fbBase i => s.cfg.fbBase[i]
  | .fbCap i => s.cfg.fbCap[i]
  | .wdFlags i => s.windows[i].flagsWord
  | .wdBufbase i => s.windows[i].bufbaseWord
  | .wdBuflen i => s.windows[i].buflenWord
  | .wdStride i => s.windows[i].strideWord
  | .wdYoff i => s.windows[i].yoffWord
  | .shadow r => s.shadow.get r

/-- The value of an engine-domain register while its bus clock runs (rule R31). -/
def Engine.read (e : Engine) : EngineReg → Word
  | .reg r => e.regs.get r
  | .intpend => flagWord e.intpend
  | .palram i k => e.palram[i].value i k

/-- What the port returns for an offset when nothing faults; an offset that names no register reads 0 (rules R21,
R78). -/
def State.portValue (s : State) (offset : Nat) : Word :=
  match domainOf offset with
  | .control => ((ControlReg.ofOffset offset).map s.readControl).getD 0
  | .engine => ((EngineReg.ofOffset offset).map s.engine.read).getD 0
  | .reserved => 0

/-- The one kind of access that the port defines (rules R76, R77). -/
def portAccessDefined (width : Width) (offset : Nat) : Bool :=
  decide (width = .word) && decide (offset % 4 = 0) && decide (offset < 0x5000)

/-- A host read (rules R77, R78, R256): refused when the port does not define it, GatedAccess when the offset's clock
is off, no step after the fault in the engine domain, otherwise the register's value and no other effect. -/
def State.hostRead (s : State) (width : Width) (offset : Nat) : Host.Outcome State Fault Refusal :=
  if portAccessDefined width offset then
    (if domainOf offset = .engine then
      (if s.faulted then .refused (.engineAccessAfterFault offset)
       else if s.power.busclkOn then .next (s.emit (.readData offset (s.portValue offset)))
       else .next (s.raise offset))
     else .next (s.emit (.readData offset (s.portValue offset))))
  else .refused (.undefinedAccess offset)

/-! ### Writes (rules R79, R101, R255) -/

/-- A doorbell write of `w` that is accepted (rule R101): CMD, the argument latch, BUSY, OVERRUN and CSQ in one
step. -/
def State.acceptCommand (s : State) (w : Word) : State :=
  { s with port := { s.port with cmd := w, latch := s.port.args, overrun := false, csq := .accepted } }

/-- The doorbell (rule R101): accepted when neither busy nor faulted, else dropped with OVERRUN set. -/
def State.doorbell (s : State) (w : Word) : State :=
  if s.busy || s.faulted then { s with port := { s.port with overrun := true } } else s.acceptCommand w

/-- A host write to a CFG-bank register or a carve-out register: the named fields take the written bits (rules R26,
R30, R79 (d)). -/
def ConfigBank.put (c : ConfigBank) (r : ControlReg) (v : Word) : ConfigBank :=
  match r with
  | .cfgRes => { c with res := v &&& 0x1FFF1FFF#32 }
  | .cfgVres => { c with vres := v &&& 0x3FFF3FFF#32 }
  | .cfgHtim => { c with htim := v &&& 0x3FFFFFFF#32 }
  | .cfgVtim => { c with vtim := v &&& 0x3FFFFFFF#32 }
  | .cfgRefresh => { c with refresh := v &&& 0x0000FFFF#32 }
  | .cfgMisc => { c with misc := v &&& 0x0000FF0F#32 }
  | .cfgPhys => { c with phys := v }
  | .fbBase i => { c with fbBase := c.fbBase.set i v }
  | .fbCap i => { c with fbCap := c.fbCap.set i v }
  | _ => c

/-- A host write to a control-domain register while the block has not faulted (rule R79 (a), (d), (e)): the doorbell,
an ARG register, SRCCLK, a Lock register while CONFIGURED = 0; every other write is dropped. -/
def State.writeControl (s : State) (r : ControlReg) (v : Word) : State :=
  match r with
  | .cmd => s.doorbell v
  | .arg k => { s with port := { s.port with args := s.port.args.set k v } }
  | .srcclk => { s with cfg := { s.cfg with srcclk := v } }
  | r => if s.port.configured then s else { s with cfg := s.cfg.put r v }

/-- A host write to a control-domain or reserved offset (rules R21, R79, R256). After the fault every write is
dropped and a doorbell write sets OVERRUN. -/
def State.writePort (s : State) (offset : Nat) (v : Word) : State :=
  match domainOf offset with
  | .control =>
    (match ControlReg.ofOffset offset with
     | none => s
     | some .cmd => s.doorbell v
     | some r => if s.faulted then s else s.writeControl r v)
  | _ => s

/-- TIMING or RESM is running, the two commands that read SRCCLK live (rule R292). -/
def State.readsClock (s : State) : Bool :=
  s.busy && (match decodeWord s.port.cmd with
    | .ok i => decide (i = .timing) || decide (i = .resm)
    | .error _ => false)

/-- A host write (rules R77, R79, R256, R292): refused when the port does not define it, and for SRCCLK while TIMING or
RESM runs; in the engine domain dropped while the bus clock runs, GatedAccess while it does not, no step after the
fault. -/
def State.hostWrite (s : State) (width : Width) (offset : Nat) (v : Word) : Host.Outcome State Fault Refusal :=
  if portAccessDefined width offset then
    (if domainOf offset = .engine then
      (if s.faulted then .refused (.engineAccessAfterFault offset)
       else if s.power.busclkOn then .next s
       else .next (s.raise offset))
     else if decide (offset = 0x060) && !s.faulted && s.readsClock then .refused .clockWriteInUse
     else .next (s.writePort offset v))
  else .refused (.undefinedAccess offset)

/-! ### Frame-buffer memory (rules R70, R87) -/

/-- A host read of one byte of frame-buffer memory, with no other effect. -/
def State.hostMemRead (s : State) (addr : Word) : State := s.emit (.memData addr (s.env.mem.read addr.toNat))

/-- A host write of one naturally aligned unit of frame-buffer memory, in one step (rule R87). -/
def State.hostMemWrite (s : State) (unit : MemUnit) (v : Word) : State :=
  { s with env := { s.env with mem := s.env.mem.writeLE unit.address unit.bytes v.toNat } }

/-- The byte steps of a wider or misaligned host write of `bytes` from `addr` (rule R87), here in ascending order; the
rule leaves their order open, so every permutation of this list, with other choices between, is a behaviour. A byte past
address 2^32 - 1 goes on at address 0: DESIGN CHOICE, log entry 27. -/
def byteWrites (addr : Word) : List Byte → List Event
  | [] => []
  | b :: bytes => .memWrite (.byte addr) (word b.toNat) :: byteWrites (addr + 1) bytes

end Sys2Proof.Machine
end

