-- ==== Sys2Proof/Machine/PaletteTable.lean ====
section
/-! DEFINITION. The pending palette tables: creation, a stored colour, the flush request, and what a flush writes
(rules R180 to R188). -/

namespace Sys2Proof.Machine

/-- A table of 256 Clear entries (rules R48, R181). -/
def PendTable.clear : PendTable := Vector.replicate Config.paletteSize none

/-- The entries that a flush writes: every `Value` entry with its index, ascending (rule R187 f3). -/
def PendTable.values (t : PendTable) : List (Fin Config.paletteSize × Word) :=
  (List.finRange Config.paletteSize).filterMap (fun k => t[k].map (fun v => (k, v)))

/-- The table that WCFG leaves for window `i` under the new format (rule R181): an Indexed8 window keeps its table or
gets a clear one; any other format drops the table, PALDIRTY[i] and PALREQ[i]. -/
def PalettePending.reformat (p : PalettePending) (i : Win) (f : Format) : PalettePending :=
  match f with
  | .indexed8 => { p with table := p.table.set i (some (p.table[i].getD PendTable.clear)) }
  | .rgb565 => { table := p.table.set i none, dirty := p.dirty.set i false, request := p.request.set i false }
  | .rgb888 => { table := p.table.set i none, dirty := p.dirty.set i false, request := p.request.set i false }

/-- PALPEND[i][k] <- Value(v) and PALDIRTY[i] <- 1 (rule R182 s2). -/
def PalettePending.store (p : PalettePending) (i : Win) (k : Fin Config.paletteSize) (v : Word) : PalettePending :=
  { p with
    table := p.table.set i (p.table[i].map (fun t => t.set k (some v)))
    dirty := p.dirty.set i true }

/-- PALREQ[i] <- b (rules R184, R188, R262). -/
def PalettePending.setRequest (p : PalettePending) (i : Win) (b : Bool) : PalettePending :=
  { p with request := p.request.set i b }

/-- Every entry of PALPEND[i] to Clear and PALDIRTY[i] <- 0 (rule R187 f5). -/
def PalettePending.cleared (p : PalettePending) (i : Win) : PalettePending :=
  { p with
    table := p.table.set i (p.table[i].map (fun _ => PendTable.clear))
    dirty := p.dirty.set i false }

/-- The micro-steps f2 to f5 of `Flush(i)` as the table now stands (rule R187). -/
def State.flushSteps (s : State) (i : Win) : List MicroOp :=
  [.regShadow .palctl 0xFFFFFFFF (oneHot i.val)]
    ++ ((s.pend.table[i].map PendTable.values).getD []).map (fun e => MicroOp.palWrite i e.1 e.2)
    ++ [.regShadow .palctl (~~~(oneHot i.val)) 0, .flushClear i]

end Sys2Proof.Machine
end

