-- ==== Sys2Proof/Machine/TimingCalc.lean ====
section
/-! DEFINITION. The clock and timing calculator as the pure function of rules R130 to R138. -/

namespace Sys2Proof.Machine

/-- The calculator's results: the divider and the register images (rules R130, R136). -/
structure TimingImage where
  div : Nat
  clkval : Nat
  timv : Word
  timh : Word
  timsize : Word
  timpol : Word
  dither : Word
deriving DecidableEq, Repr

/-- A porch or sync value that fits its "value - 1" field: 1 to 256 (rules R134 (a), R135 (c)). -/
def porchFits (n : Nat) : Bool := decide (1 ≤ n) && decide (n ≤ 256)

/-- A resolution that fits its "value - 1" field: 1 to 4096 (rule R135 (b)). -/
def resolutionFits (n : Nat) : Bool := decide (1 ≤ n) && decide (n ≤ 4096)

/-- h_total (rule R132). -/
def ConfigBank.hTotal (c : ConfigBank) : Nat := c.hfp + c.hsw + c.hbp + c.xres

/-- v_total (rule R132). -/
def ConfigBank.vTotal (c : ConfigBank) : Nat := c.vfp + c.vsw + c.vbp + c.yres

/-- The pixel clock target: refresh × h_total × v_total, exact (rule R132). -/
def ConfigBank.target (c : ConfigBank) : Nat := c.refreshHz * c.hTotal * c.vTotal

/-- The first decimal digit of the quotient src / target (rule R133). -/
def tenths (src target : Nat) : Nat := src * 10 / target % 10

/-- The divider of rule R133, an integer that may be -1 or 0: the floor, one less when the tenths are 5 or more. -/
def divider (src target : Nat) : Int :=
  if tenths src target ≤ 4 then ((src / target : Nat) : Int) else ((src / target : Nat) : Int) - 1

/-- The register images of rule R136 for a divider that passed the checks. -/
def ConfigBank.images (c : ConfigBank) (div : Nat) : TimingImage :=
  { div := div
    clkval := div - 1
    timv := (word (c.vbp - 1) <<< 16) ||| (word (c.vfp - 1) <<< 8) ||| word (c.vsw - 1)
    timh := (word (c.hbp - 1) <<< 16) ||| (word (c.hfp - 1) <<< 8) ||| word (c.hsw - 1)
    timsize := (word (c.yres - 1) <<< 16) ||| word (c.xres - 1)
    timpol := word c.pol
    dither := word c.ditherSpec }

/-- The checks on the porches and the resolution (rules R134 (a), R135 (b), (c)). -/
def ConfigBank.fieldsFit (c : ConfigBank) : Bool :=
  porchFits c.hfp && porchFits c.hsw && porchFits c.hbp && porchFits c.vfp && porchFits c.vsw && porchFits c.vbp
    && resolutionFits c.xres && resolutionFits c.yres

/-- `TimingCalc(CFG, SRCCLK)`; `none` is InvalidTiming (rule R138). -/
def ConfigBank.timingCalc (c : ConfigBank) : Option TimingImage :=
  if c.fieldsFit && decide (c.target ≠ 0) then
    (if 1 ≤ divider c.srcclk.toNat c.target ∧ divider c.srcclk.toNat c.target ≤ 256 then
      some (c.images (divider c.srcclk.toNat c.target).toNat)
    else none)
  else none

end Sys2Proof.Machine
end

