-- ==== Sys2Proof/Machine/Micro.lean ====
section
/-! DEFINITION. What each micro-step does (rule R9): its effect on the state and what its agent does next. The command
sequencer and the interrupt handler share these micro-steps. -/

namespace Sys2Proof.Machine

/-- What the running agent does after a micro-step. -/
inductive Flow
  /-- Take these micro-steps next, then the rest of its own. -/
  | go (first : List MicroOp)
  /-- Take these micro-steps instead of the rest of its own. -/
  | jump (instead : List MicroOp)
  /-- The agent has ended: it is Idle. -/
  | done
  /-- The fault was raised: the agent stays where it is (rule R256). -/
  | halt
deriving DecidableEq, Repr

/-! ### Micro-step lists that several rules share -/

/-- `RegWrite(r, v)` with a value that does not depend on the shadow (rule R40). -/
def regWriteSteps (r : RegId) (v : Word) : List MicroOp := [.regShadow r 0 v]

/-- `RegWrite(r, (SHADOW[r] AND keep) OR set)` (rule R40). -/
def regUpdateSteps (r : RegId) (keep set : Word) : List MicroOp := [.regShadow r keep set]

/-- `Masked { body }` (rule R41). -/
def maskedSteps (body : List MicroOp) : List MicroOp := [.maskEnter] ++ body ++ [.maskLeave]

/-- The six writes of the calculator's results: CTRL keeps the bits `keep` and takes CLKVAL (rules R140, R237). -/
def timingWrites (t : TimingImage) (keep : Word) : List MicroOp :=
  regUpdateSteps .ctrl keep (word t.clkval <<< 8)
    ++ regWriteSteps .timv t.timv ++ regWriteSteps .timh t.timh ++ regWriteSteps .timsize t.timsize
    ++ regWriteSteps .timpol t.timpol ++ regWriteSteps .dither t.dither

/-- SNAPSHOT as the ordered list of (register-id, value) pairs (rules R53, R233); None has no pair. -/
def snapshotList (snap : Option EngineRegs) : List (RegId × Word) :=
  match snap with
  | some e => shadowIds.map (fun r => (r, e.get r))
  | none => []

/-- The snapshot's value of CTRL AND 1: the OUT_EN that RESM s7 restores (rules R237, R240). -/
def snapshotOutEn (snap : Option EngineRegs) : Word :=
  match snap with
  | some e => e.ctrl &&& 0x00000001#32
  | none => 0

/-- One entry's restore: CTRL with OUT_EN forced to 0, any other register as captured (rules R237 s5, R239). -/
def restoreSteps (e : RegId × Word) : List MicroOp :=
  if e.1 = .ctrl then regWriteSteps e.1 (e.2 &&& ~~~0x00000001#32) else regWriteSteps e.1 e.2

/-- RESM s5 to s9 with SNAPSHOT as it stands (rule R237). -/
def resumeSteps (snap : Option EngineRegs) : List MicroOp :=
  (snapshotList snap).flatMap restoreSteps
    ++ [.rederive]
    ++ regUpdateSteps .ctrl 0xFFFFFFFF (snapshotOutEn snap)
    ++ [.dropSnapshot, .enterActive]

/-- RESM's fail path (rule R237): its two lines, which have no number, are two micro-steps (DESIGN CHOICE, log entry 31). -/
def resumeFailSteps : List MicroOp := [.gateFailed, .resumeFailed]

/-! ### The effects -/

/-- `RegWrite` w2 (rule R40): the hardware half, or GatedAccess with the bus clock off. -/
def microRegHardware (s : State) (r : RegId) (v : Word) : State × Flow :=
  if s.power.busclkOn then (s.writeHardware r v, .go []) else (s.raise r.offset, .halt)

/-- `PalWrite` (rule R186), or GatedAccess with the bus clock off. -/
def microPalWrite (s : State) (i : Win) (k : Fin Config.paletteSize) (v : Word) : State × Flow :=
  if s.power.busclkOn then (s.palWrite i k v, .go [])
  else (s.raise (0x1000 + 0x400 * i.val + 4 * k.val), .halt)

/-- One byte of the zero-fill (rule R157). -/
def microZeroFill (s : State) (addr left : Nat) : State × Flow :=
  match left with
  | 0 => (s, .go [])
  | n + 1 =>
    ({ s with env := { s.env with mem := s.env.mem.write addr 0 } },
     .go (if n = 0 then [] else [.zeroFill (addr + 1) n]))

/-- One readiness poll (rule R238): ready goes on at s5 with the snapshot, not ready retries until the budget. -/
def microPoll (s : State) : State × Flow :=
  if s.env.domainReady then (s, .go (resumeSteps s.power.snapshot))
  else
    ({ s with power := { s.power with retry := s.power.retry + 1 } },
     if s.power.retry + 1 < Config.retryBudget then .go [.pollReady] else .jump resumeFailSteps)

/-- RESM s6 (rules R237, R241): skipped before bring-up, else the calculator again, on the CFG bank and SRCCLK as they
are now. -/
def microRederive (s : State) : State × Flow :=
  if s.port.configured then
    (match s.cfg.timingCalc with
     | some t => (s, .go (timingWrites t 0xFFFF00FE))
     | none => (s, .jump resumeFailSteps))
  else (s, .go [])

/-- WPAN s3's descriptor: the new y_offset and the committed half (rule R166). -/
def Window.panned (d : Window) (yOffset : Nat) (half : Bool) : Window :=
  { d with yOffset := yOffset, buffer := d.buffer.map (fun b => { b with committed := half }) }

/-- WD[i] <- d. -/
def State.setWindow (s : State) (i : Win) (d : Window) : State := { s with windows := s.windows.set i d }

/-- PSTATE <- p (rule R230). -/
def State.setPState (s : State) (p : PState) : State := { s with power := { s.power with pstate := p } }

/-- The effect of every micro-step. -/
def microStep (op : MicroOp) (s : State) : State × Flow :=
  match op with
  | .maskEnter => (s.mask, .go [])
  | .maskLeave => (s.unmask, .go [])
  | .regShadow r keep set =>
      (s.writeShadow r (s.composed r keep set), .go [.regHardware r (s.composed r keep set), .regUnmask])
  | .regHardware r v => microRegHardware s r v
  | .regUnmask => (s.unmask, .go [])
  | .palWrite i k v => microPalWrite s i k v
  | .flushStart i => (s, .go (if s.pend.dirty[i] then s.flushSteps i else []))
  | .flushClear i => ({ s with pend := s.pend.cleared i }, .go [])
  | .zeroFill addr left => microZeroFill s addr left
  | .commitTiming div =>
      (State.finish { s with port := { s.port with configured := true } } .ok (word div), .done)
  | .commitWindow i d =>
      (State.finish { s.setWindow i d with pend := s.pend.reformat i (d.format.getD .rgb888) } .ok 0, .done)
  | .commitPan i y b => (State.finish (s.setWindow i (s.windows[i].panned y b)) .ok 0, .done)
  | .commitEnable i on => (State.finish (s.setWindow i { s.windows[i] with enabled := on }) .ok 0, .done)
  | .requestFlush i => ({ s with pend := s.pend.setRequest i true }, .go [])
  | .returnOk => (s.finish .ok 0, .done)
  | .enterSuspending => (s.setPState .suspending, .go [])
  | .capture => ({ s with power := { s.power with snapshot := some s.shadow } }, .go [])
  | .idlePins => (s.emit .idlePinsReq, .go [])
  | .startSettle => ({ s with power := { s.power with settle := Config.settleTicks } }, .go [])
  | .gateWhenSettled => (s.gateClocks, .go [])
  | .enterSuspended => ((s.setPState .suspended).finish .ok 0, .done)
  | .enterResuming => (s.setPState .resuming, .go [])
  | .clocksOn => ({ s with power := { s.power with busclkOn := true, pixclkOn := true } }, .go [])
  | .retryClear => ({ s with power := { s.power with retry := 0 } }, .go [])
  | .pollReady => microPoll s
  | .rederive => microRederive s
  | .dropSnapshot => ({ s with power := { s.power with snapshot := none } }, .go [])
  | .enterActive => ((s.setPState .active).finish .ok 0, .done)
  | .gateFailed => (s.gateClocks, .go [])
  | .resumeFailed => ((s.setPState .suspended).finish .powerSequenceFailed 0, .done)
  | .countVsync => (s.countVsync, .go [])
  | .wakeWaiters => (s.wakeWaiters, .go [])
  | .serveFlush i => (s, .go (if s.pend.request[i] then [.flushStart i, .clearRequest i] else []))
  | .clearRequest i => ({ s with pend := s.pend.setRequest i false }, .go [])
  | .handlerReturn => (s, .done)

end Sys2Proof.Machine
end

