-- ==== Sys2Proof/Machine/Agents.lean ====
section
/-! DEFINITION. The agents of rule R10 as steps: which of them is enabled in a state, and what one step of each does
(rules R9, R86, R261 to R264). A choice of an agent that has no step in a state leaves the state as it is. -/

namespace Sys2Proof.Machine

/-- CSQ with these micro-steps left. -/
def State.withCsq (s : State) (c : Csq) : State := { s with port := { s.port with csq := c } }

/-- IH with these micro-steps left. -/
def State.withHandler (s : State) (h : Handler) : State := { s with vsync := { s.vsync with handler := h } }

/-- The handler is running: the sequencer has no step (rule R263). -/
def State.handlerRunning (s : State) : Bool :=
  match s.vsync.handler with
  | .idle => false
  | .running _ => true

/-- The sequencer is a party that may step: no fault and the handler idle (rules R256, R263). -/
def State.sequencerFree (s : State) : Bool := !s.faulted && !s.handlerRunning

/-- The one micro-step that waits: SUSP s6 until SETTLE = 0 (rule R235). -/
def waitsForSettle (op : MicroOp) (settle : Nat) : Bool :=
  decide (op = .gateWhenSettled) && decide (0 < settle)

/-- The sequencer's micro-step `op`, with `rest` left after it. -/
def sequencerStep (op : MicroOp) (rest : List MicroOp) (s : State) : State :=
  match microStep op s with
  | (s', .go first) => s'.withCsq (.running (first ++ rest))
  | (s', .jump instead) => s'.withCsq (.running instead)
  | (s', .done) => s'.withCsq .idle
  | (s', .halt) => s'

/-- The handler's micro-step `op`, with `rest` left after it. -/
def handlerStep (op : MicroOp) (rest : List MicroOp) (s : State) : State :=
  match microStep op s with
  | (s', .go first) => s'.withHandler (.running (first ++ rest))
  | (s', .jump instead) => s'.withHandler (.running instead)
  | (s', .done) => s'.handlerLeave
  | (s', .halt) => s'

/-- The sequencer's turn in the middle of a command: one micro-step if it has one (rules R9, R235, R263). -/
def sequencerTurn (s : State) : State :=
  match s.port.csq with
  | .running (op :: rest) =>
    if s.sequencerFree && !waitsForSettle op s.power.settle then sequencerStep op rest s else s
  | _ => s

/-- The sequencer has an enabled micro-step in the middle of a command (rules R9, R235, R263). -/
def State.sequencerMayGoOn (s : State) : Bool :=
  match s.port.csq with
  | .running (op :: _) => s.sequencerFree && !waitsForSettle op s.power.settle
  | _ => false

/-- The handler's turn: its next micro-step, or its entry when the entry condition holds (rules R261, R262). -/
def handlerTurn (s : State) : State :=
  if s.faulted then s
  else match s.vsync.handler with
    | .idle => if s.handlerMayEnter then s.handlerEnter else s
    | .running [] => s
    | .running (op :: rest) => handlerStep op rest s

/-- The timing generator's turn (rule R260). -/
def frameTurn (s : State) : State :=
  if !s.faulted && s.frameMayStart then s.frameStart else s

/-- The scan-out unit's turn (rule R196). -/
def scanTurn (s : State) : State :=
  match s.engine.cur with
  | .idle => s
  | .at px py => if !s.faulted && s.scanEnabled then s.scanPixel px py else s

/-- The timebase's turn (rules R220, R256). -/
def tickTurn (s : State) : State := if s.faulted then s else s.tick

/-- The platform's input domain_ready takes a level (rules R10, R238). -/
def State.setReady (s : State) (level : Bool) : State := { s with env := { s.env with domainReady := level } }

/-- One scheduled choice. -/
def eventStep (e : Event) (s : State) : Host.Outcome State Fault Refusal :=
  match e with
  | .sequencer => .next (sequencerTurn s)
  | .handler => .next (handlerTurn s)
  | .frameStart => .next (frameTurn s)
  | .scanOut => .next (scanTurn s)
  | .tick => .next (tickTurn s)
  | .hostRead width offset => s.hostRead width offset
  | .hostWrite width offset v => s.hostWrite width offset v
  | .memRead addr => .next (s.hostMemRead addr)
  | .memWrite unit v => .next (s.hostMemWrite unit v)
  | .domainReady level => .next (s.setReady level)
  | .reset => .next s.resetStep

end Sys2Proof.Machine
end

