-- ==== Sys2Proof/Machine/Run.lean ====
section
/-! DEFINITION. How a command runs from its first micro-step to its end: the agents step in the scheduled order between
its micro-steps, and when nothing more is scheduled the running agents go on undisturbed (rules R9, R263, R296, R297). -/

namespace Sys2Proof.Machine

/-! ### Nothing scheduled -/

/-- The step taken when nothing is scheduled: the running handler goes first (rule R263), then the running command;
while the command waits for SETTLE the timebase ticks (rules R235, R296 (c)). `none`: nothing is running. -/
def autoStep (s : State) : Option State :=
  if s.faulted then none
  else match s.vsync.handler with
    | .running (op :: rest) => some (handlerStep op rest s)
    | .running [] => none
    | .idle =>
      match s.port.csq with
      | .running (op :: rest) =>
        some (if waitsForSettle op s.power.settle then s.tick else sequencerStep op rest s)
      | _ => none

/-- More micro-steps than `op` and whatever it leads to can take, the settle wait and the polls apart. -/
def MicroOp.cost : MicroOp → Nat
  | .regShadow _ _ _ => 3
  | .flushStart _ => 264
  | .serveFlush _ => 266
  | .zeroFill _ left => left + 1
  | .startSettle => Config.settleTicks + 2
  | .retryClear => Config.retryBudget + 1
  | .pollReady => 200
  | .rederive => 19
  | .resumeFailed => 1
  | _ => 1

/-- The cost of a list of micro-steps. -/
def costOf (ops : List MicroOp) : Nat := (ops.map MicroOp.cost).sum

/-- The micro-steps the sequencer has left. -/
def Csq.todo : Csq → List MicroOp
  | .idle => []
  | .accepted => []
  | .running ops => ops

/-- The micro-steps the handler has left. -/
def Handler.todo : Handler → List MicroOp
  | .idle => []
  | .running ops => ops

/-- A bound on the steps that `autoStep` can still take. -/
def fuel (s : State) : Nat :=
  (Config.retryBudget - s.power.retry) + s.power.settle + costOf s.vsync.handler.todo + costOf s.port.csq.todo

/-- At most `n` of the steps `autoStep` takes. -/
def settleDown : Nat → State → State
  | 0, s => s
  | n + 1, s =>
    match autoStep s with
    | none => s
    | some s' => settleDown n s'

/-- What is running, run to its end with nothing in between. -/
def complete (s : State) : State := settleDown (fuel s) s

/-! ### A command with the scheduled choices -/

/-- The scheduled choices, one after the other, until the command has ended (or was reset); then, if none is left, the
rest of the command undisturbed. The choices not used stay scheduled. -/
def runScheduled : List Event → State → Host.Outcome State Fault Refusal
  | [], s => .next (complete s)
  | e :: es, s =>
    if s.busy then
      (match eventStep e { s with env := { s.env with schedule := es } } with
       | .next s' => runScheduled es s'
       | .fault r => .fault r
       | .refused r => .refused r)
    else .next s

/-- Runs the command whose micro-steps after the first are `steps`. -/
def launch (s : State) (steps : List MicroOp) : Host.Outcome State Fault Refusal :=
  runScheduled s.env.schedule (s.withCsq (.running steps))

/-- Ends the command in its first micro-step with an error (rules R102, R252). -/
def reject (s : State) (r : Result) : Host.Outcome State Fault Refusal := .next (s.finish r 0)

/-- Ends the command in its first micro-step with success and a value (rule R102). -/
def answer (s : State) (v : Word) : Host.Outcome State Fault Refusal := .next (s.finish .ok v)

end Sys2Proof.Machine
end

