-- ==== Sys2Proof/Machine/WindowCommands.lean ====
section
/-! DEFINITION. WCFG, WPAN, WEN and WDIS (rules R154 to R173). -/

namespace Sys2Proof.Machine

/-- The check that a command of windows 0 to NWIN - 1 makes first: another index is InvalidWindow (rules R110, R154 c1,
R165 c1, R172 c1, R173 c1, R182 c1, R184 c1). -/
def onWindow (s : State) (win : Nat) (body : Win → Host.Outcome State Fault Refusal) :
    Host.Outcome State Fault Refusal :=
  match windowIndex win with
  | none => reject s .invalidWindow
  | some i => body i

/-- WCFG s2: the zero-fill of a fresh buffer (rules R155, R157). -/
def zeroFillSteps (d : Window) (f : Format) (l : Layout) (base : Word) : List MicroOp :=
  if d.reuses f l.length then [] else [.zeroFill base.toNat l.length]

/-- The first byte of address set 1: half 1 of a double buffer, else the buffer's first byte (rules R158, R162 (e)). -/
def setOneStart (l : Layout) (base : Word) (db : Bool) : Nat :=
  if db then base.toNat + l.half else base.toNat

/-- WCFG s3: the address-latch sequence with the interrupt masked (rule R158). -/
def addressSteps (i : Win) (l : Layout) (base : Word) (db : Bool) : List MicroOp :=
  maskedSteps
    (regUpdateSteps .alatch (~~~(oneHot i.val)) 0
      ++ regWriteSteps (.win i .start0) base
      ++ regWriteSteps (.win i .end0) (addressWord (base.toNat + l.visible))
      ++ (if i.val ≤ 1 then
            regWriteSteps (.win i .start1) (addressWord (setOneStart l base db))
              ++ regWriteSteps (.win i .end1) (addressWord (setOneStart l base db + l.visible))
          else [])
      ++ regUpdateSteps .alatch 0xFFFFFFFF (oneHot i.val))

/-- WCFG s4 to s10: stride and offset, geometry, mode, blend and key, enable (rules R158, R159). -/
def programSteps (i : Win) (f : Format) (l : Layout) (a : WcfgArgs) (se : Bool) (blend : Option Blend) :
    List MicroOp :=
  regWriteSteps (.win i .size) ((word l.panOffset <<< 16) ||| word l.lineStride)
    ++ regWriteSteps (.win i .posA) ((word a.x <<< 16) ||| word a.y)
    ++ regWriteSteps (.win i .posB) ((word (a.x + a.width - 1) <<< 16) ||| word (a.y + a.height - 1))
    ++ regWriteSteps (.win i .ctl) f.mode
    ++ (if 1 ≤ i.val then
          regWriteSteps (.win i .blend) (blendWord blend) ++ regWriteSteps (.win i .key) (keyWord f blend)
        else [])
    ++ (if se then regWriteSteps (.win i .ctl) (f.mode ||| 0x00000001#32) else [])

/-- WCFG s2 to s11 for a configuration that passed its checks (rule R158). -/
def wcfgSteps (s : State) (i : Win) (f : Format) (l : Layout) (se db bl pd : Bool) : List MicroOp :=
  zeroFillSteps s.windows[i] f l s.cfg.fbBase[i]
    ++ addressSteps i l s.cfg.fbBase[i] db
    ++ programSteps i f l s.wcfgArgs se (if bl then some s.wcfgArgs.blendRecord else none)
    ++ [.commitWindow i (windowRecord f s.wcfgArgs l s.cfg.fbBase[i] se db bl pd)]

/-- WCFG (rule R158): NotReady before bring-up, the checks c1 to c11 in order with nothing changed on a failure, then
the zero-fill, the register writes and the descriptor. -/
def execWcfg (win : Nat) (fmt : BitVec 2) (se db bl pd : Bool) (s : State) : Host.Outcome State Fault Refusal :=
  if s.port.configured then
    onWindow s win fun i =>
      match wcfgCheck s.cfg i fmt db bl s.wcfgArgs with
      | .error e => reject s e
      | .ok (f, l) => launch s (wcfgSteps s i f l se db bl pd)
  else reject s .notReady

/-- The two address registers of one set (rules R166, R169). -/
def startReg (half : Bool) : WinReg := if half then .start1 else .start0

/-- The two address registers of one set (rules R166, R169). -/
def endReg (half : Bool) : WinReg := if half then .end1 else .end0

/-- WPAN's write of BUFSEL when it differs from the half (rule R166). -/
def bufselSteps (shadow : EngineRegs) (i : Win) (half : Bool) : List MicroOp :=
  if shadow.bufsel i = half then []
  else regUpdateSteps (.win i .ctl) (~~~0x00000002#32) (flagWord half <<< 1)

/-- WPAN s2 and s3 (rule R166). -/
def wpanSteps (s : State) (i : Win) (p : PanPlan) (yOffset : Nat) : List MicroOp :=
  maskedSteps
      (regUpdateSteps .alatch (~~~(oneHot i.val)) 0
        ++ regWriteSteps (.win i (startReg p.half)) (addressWord p.start)
        ++ regWriteSteps (.win i (endReg p.half)) (addressWord p.stop)
        ++ bufselSteps s.shadow i p.half
        ++ regUpdateSteps .alatch 0xFFFFFFFF (oneHot i.val))
    ++ [.commitPan i yOffset p.half]

/-- WPAN (rules R164 to R166): NotReady before bring-up; InvalidPan without a buffer or past its end; else the latch
sequence around the new addresses and the half's BUFSEL, with the interrupt masked. -/
def execWpan (win : Nat) (s : State) : Host.Outcome State Fault Refusal :=
  if s.port.configured then
    onWindow s win fun i =>
      match s.windows[i].panPlan s.panArg with
      | none => reject s .invalidPan
      | some p => launch s (wpanSteps s i p s.panArg)
  else reject s .notReady

/-- WEN (rule R172): NotReady before bring-up; InvalidWindow without a buffer; else WIN_EN <- 1, always written. -/
def execWen (win : Nat) (s : State) : Host.Outcome State Fault Refusal :=
  if s.port.configured then
    onWindow s win fun i =>
      if s.windows[i].buffer.isSome then
        launch s (regUpdateSteps (.win i .ctl) 0xFFFFFFFF 0x00000001 ++ [.commitEnable i true])
      else reject s .invalidWindow
  else reject s .notReady

/-- WDIS (rule R173): NotReady before bring-up; else WIN_EN <- 0, always written, on a window without a buffer too. -/
def execWdis (win : Nat) (s : State) : Host.Outcome State Fault Refusal :=
  if s.port.configured then
    onWindow s win fun i =>
      launch s (regUpdateSteps (.win i .ctl) (~~~0x00000001#32) 0 ++ [.commitEnable i false])
  else reject s .notReady

end Sys2Proof.Machine
end

