-- ==== Sys2Proof/Machine/PaletteCommands.lean ====
section
/-! DEFINITION. PSET and PFLUSH (rules R182 to R188). -/

namespace Sys2Proof.Machine

/-- The check that PSET and PFLUSH make second: a window that is not Indexed8, one without a format among them, is
InvalidFormat (rules R182 c2, R184 c2). -/
def onIndexed (s : State) (i : Win) (body : Host.Outcome State Fault Refusal) : Host.Outcome State Fault Refusal :=
  if s.windows[i].format = some .indexed8 then body else reject s .invalidFormat

/-- PSET (rule R182): stores Value(x[0]) in the pending table and marks it dirty; no power state or configuration is
checked. Its checks and its store are one micro-step, as rules R91 and R265 state; rule R182 numbers them s1 and s2, and
no agent's step can tell the two readings apart (DEDUCED, log entry 5). -/
def execPset (win idx : Nat) (s : State) : Host.Outcome State Fault Refusal :=
  onWindow s win fun i =>
    onIndexed s i (answer { s with pend := s.pend.store i (Fin.ofNat Config.paletteSize idx) s.colourArg } 0)

/-- PFLUSH s2 and s3 (rule R184): a request for the handler when the window defers, else the flush with the interrupt
masked. -/
def pflushSteps (i : Win) (deferred : Bool) : List MicroOp :=
  (if deferred then [.requestFlush i] else maskedSteps [.flushStart i]) ++ [.returnOk]

/-- PFLUSH (rule R184). -/
def execPflush (win : Nat) (s : State) : Host.Outcome State Fault Refusal :=
  onWindow s win fun i => onIndexed s i (launch s (pflushSteps i s.windows[i].palDefer))

end Sys2Proof.Machine
end

