-- ==== Sys2Proof/Machine/PowerCommands.lean ====
section
/-! DEFINITION. SUSP and RESM (rules R230 to R247). -/

namespace Sys2Proof.Machine

/-- SUSP s2 to s7 (rule R232). -/
def suspSteps : List MicroOp :=
  [.enterSuspending, .capture, .idlePins, .startSettle, .gateWhenSettled, .enterSuspended]

/-- SUSP (rule R232): OK at once when Suspended (rule R244); else the snapshot, the idle-pin request, the settle wait
and the gating. -/
def execSusp (s : State) : Host.Outcome State Fault Refusal :=
  if s.power.pstate = .suspended then answer s 0 else launch s suspSteps

/-- RESM s2 to s4 (rules R237, R238); the readiness poll lays out s5 to s9, or the fail path. -/
def resmSteps : List MicroOp := [.enterResuming, .clocksOn, .retryClear, .pollReady]

/-- RESM (rule R237): OK at once when Active (rule R244); else clocks on, readiness, restore, re-derivation, output. -/
def execResm (s : State) : Host.Outcome State Fault Refusal :=
  if s.power.pstate = .active then answer s 0 else launch s resmSteps

end Sys2Proof.Machine
end

