-- ==== Sys2Proof/Machine/Timing.lean ====
section
/-! DEFINITION. TIMING, OUTON and OUTOFF (rules R140 to R143). -/

namespace Sys2Proof.Machine

/-- TIMING s2 to s8 (rule R140): the calculator's six writes, CTRL keeping OUT_EN, then CONFIGURED. -/
def timingSteps (t : TimingImage) : List MicroOp := timingWrites t 0x00000001 ++ [.commitTiming t.div]

/-- TIMING (rule R140): IllegalCommand once configured (rule R111 (2)); InvalidTiming when the calculator refuses, with
nothing changed; else its results are programmed, the CFG bank locks and RETVAL is the divider. -/
def execTiming (s : State) : Host.Outcome State Fault Refusal :=
  if s.port.configured then reject s .illegalCommand
  else match s.cfg.timingCalc with
    | none => reject s .invalidTiming
    | some t => launch s (timingSteps t)

/-- OUTON s1 to s3 (rule R142). -/
def outonSteps : List MicroOp :=
  regWriteSteps .inten 0x00000001 ++ regUpdateSteps .ctrl 0xFFFFFFFF 0x00000001 ++ [.returnOk]

/-- OUTON (rule R142): NotReady before bring-up (rule R111 (1)); VSYNC_IE, then OUT_EN, whose rise loads the active
latches. Its rule has no line of checks before s1, a `RegWrite`: that the dispatch is a micro-step of its own before w1,
after which another agent may step, is the model's DESIGN CHOICE (log entry 28). -/
def execOuton (s : State) : Host.Outcome State Fault Refusal :=
  if s.port.configured then launch s outonSteps else reject s .notReady

/-- OUTOFF s1 and s2 (rule R143). -/
def outoffSteps : List MicroOp := regUpdateSteps .ctrl (~~~0x00000001#32) 0 ++ [.returnOk]

/-- OUTOFF (rule R143): OUT_EN <- 0, with no check. The dispatch is a micro-step of its own before w1: DESIGN CHOICE, log
entry 28. When OUT_EN falls a VSYNC_PEND of 1 is cleared with it (DEDUCED, log entry 29), so an outstanding wait can
only time out. -/
def execOutoff (s : State) : Host.Outcome State Fault Refusal := launch s outoffSteps

end Sys2Proof.Machine
end

