-- ==== Sys2Proof/Machine/VsyncCommands.lean ====
section
/-! DEFINITION. VWAIT (rule R218). -/

namespace Sys2Proof.Machine

/-- W[k] <- { Waiting, snap = VSCOUNT, rem = timeout, val = 0 } (rule R218 s1). -/
def State.armSlot (s : State) (k : Fin Config.nslot) (timeout : Word) : State :=
  { s with vsync := { s.vsync with
      waiters := s.vsync.waiters.set k { state := .waiting, snap := s.vsync.vscount, rem := timeout, val := 0 } } }

/-- VWAIT on slot `k`: IllegalCommand while the slot is Waiting (rule R111 (3)), else the slot is armed and the command
ends in the same micro-step with the snapshot in RETVAL (rule R218). -/
def vwaitOn (s : State) (k : Fin Config.nslot) : Host.Outcome State Fault Refusal :=
  if s.vsync.waiters[k].state = .waiting then reject s .illegalCommand
  else answer (s.armSlot k s.timeoutArg) s.vsync.vscount

/-- VWAIT (rule R218). -/
def execVwait (slot : Nat) (s : State) : Host.Outcome State Fault Refusal :=
  vwaitOn s (Fin.ofNat Config.nslot slot)

end Sys2Proof.Machine
end

