-- ==== Sys2Proof/Machine/Dispatch.lean ====
section
/-! DEFINITION. Dispatch on the decoded command (rule R100): one arm per row of the opcode map. -/

namespace Sys2Proof.Machine

-- exec i s: the sequencer takes the first micro-step of command i in the state s, whose argument latch holds the
-- operands, and the command runs to its end between the scheduled choices of the other agents.
def exec (i : Instr) (s : State) : Host.Outcome State Fault Refusal :=
  match i with
  | .timing => Sys2Proof.Machine.execTiming s
  | .outon => Sys2Proof.Machine.execOuton s
  | .outoff => Sys2Proof.Machine.execOutoff s
  | .wcfg win fmt se db bl pd => Sys2Proof.Machine.execWcfg win fmt se db bl pd s
  | .wpan win => Sys2Proof.Machine.execWpan win s
  | .wen win => Sys2Proof.Machine.execWen win s
  | .wdis win => Sys2Proof.Machine.execWdis win s
  | .pset win idx => Sys2Proof.Machine.execPset win idx s
  | .pflush win => Sys2Proof.Machine.execPflush win s
  | .vwait slot => Sys2Proof.Machine.execVwait slot s
  | .susp => Sys2Proof.Machine.execSusp s
  | .resm => Sys2Proof.Machine.execResm s

end Sys2Proof.Machine
end

