-- ==== Sys2Proof/Machine/Step.lean ====
section
/-! DEFINITION. One step of the machine: the next scheduled choice, or, with nothing scheduled, what is running. -/

namespace Sys2Proof.Machine

/-- The sequencer's turn on an accepted command (rules R100, R109): decode CMD and run the command, or end it with
IllegalCommand when the word does not decode. -/
def startCommand (s : State) : Host.Outcome State Fault Refusal :=
  match decodeWord s.port.cmd with
  | .ok i => exec i s
  | .error _ => reject s .illegalCommand

/-- A command has been accepted and the sequencer may take its first micro-step (rules R23, R256, R263). -/
def State.commandWaits (s : State) : Bool := decide (s.port.csq = .accepted) && s.sequencerFree

/-- The agent whose turn it is when nothing is scheduled and nothing runs: the handler, the timing generator, the
scan-out unit and the timebase one after the other, so that a run with nothing scheduled is fair to each of them (rule
R296). The order is DESIGN CHOICE, log entry 2. -/
def idleTurn (n : Nat) : Event :=
  match n % 4 with
  | 0 => .handler
  | 1 => .frameStart
  | 2 => .scanOut
  | _ => .tick

/-- One step (rules R9, R10, R86). A scheduled choice is taken off the schedule and performed; a choice of the
sequencer on an accepted command runs the command. With nothing scheduled an accepted command runs, otherwise whatever
is running goes on, and the other agents take turns when nothing is; a block that has faulted stops (rule R256). -/
def step (s : State) : Host.Outcome State Fault Refusal :=
  match s.env.schedule with
  | [] =>
    match s.port.fault with
    | some r => .fault (.gatedAccess r)
    | none =>
      if s.commandWaits then startCommand s
      else if s.busy || s.handlerRunning then .next (complete s)
      else eventStep (idleTurn s.env.turn) { s with env := { s.env with turn := s.env.turn + 1 } }
  | e :: es =>
    if e = .sequencer && s.commandWaits then startCommand { s with env := { s.env with schedule := es } }
    else eventStep e { s with env := { s.env with schedule := es } }

/-- `s` with the command word `w` of `nbits` bits where the sequencer fetches its next command: accepted at the
doorbell (rule R101), with nothing that keeps the sequencer from its first micro-step (no fault, the handler idle,
nothing scheduled). The next `step` runs it. -/
def State.withFetchWord (s : State) (nbits w : Nat) : State :=
  let a := s.acceptCommand (tableWord nbits w)
  { a with
    port := { a.port with fault := none }
    vsync := { a.vsync with handler := .idle }
    env := { a.env with schedule := [] } }

end Sys2Proof.Machine
end

