-- ==== Sys2Proof/Safety.lean ====
section
/-! DEFINITION. The conditions that statements about the machine use: an undisturbed run, the platform's obligations,
the legal states between commands and the micro-steps each agent owns. -/

namespace Sys2Proof.Machine

/-- Nothing keeps the sequencer from its micro-steps and no other agent's choice comes between them: no fault, the
handler idle, nothing scheduled. The command of such a state runs as its rule lists its micro-steps. -/
def State.undisturbed (s : State) : Prop :=
  s.port.fault = none ∧ s.vsync.handler = .idle ∧ s.env.schedule = []

/-- The bus clock of the engine domain runs: a `RegWrite` reaches the hardware (rules R40, R256). -/
def State.clocked (s : State) : Prop := s.power.busclkOn = true

/-- The carve-outs of two windows share no byte (rule R82). -/
def carveOutsDisjoint (c : ConfigBank) (i j : Win) : Prop :=
  c.fbBase[i].toNat + c.fbCap[i].toNat ≤ c.fbBase[j].toNat ∨ c.fbBase[j].toNat + c.fbCap[j].toNat ≤ c.fbBase[i].toNat

/-- The platform's obligations on the carve-outs of the windows that will be configured, which the block does not check
(rules R82, R285; U10): aligned, inside the address space, pairwise disjoint. Launch premises of a claim that needs
them. -/
def platformObligations (c : ConfigBank) (configured : Win → Prop) : Prop :=
  (∀ i : Win, configured i →
      c.fbBase[i].toNat % Config.page = 0 ∧ c.fbBase[i].toNat + c.fbCap[i].toNat ≤ Config.memorySize)
    ∧ ∀ i j : Win, configured i → configured j → i ≠ j → carveOutsDisjoint c i j

/-- SHADOW[r] = REG[r] for every shadowed id (rules R40, R56 (a)). -/
def State.coherent (s : State) : Prop := ∀ r ∈ shadowIds, s.shadow.get r = s.engine.regs.get r

/-! ### The rows of the opcode map -/

/-- One row of the opcode map: a word selects it when the word's bits under `mask` are `pattern` (rule R105). -/
structure OpcodeRow where
  pattern : Word
  mask : Word
deriving DecidableEq, Repr

/-- The word selects the row (rule R105). -/
def OpcodeRow.selects (r : OpcodeRow) (w : Word) : Prop := w &&& r.mask = r.pattern

/-- The twelve rows of rule R105, columns `match` and `mask`. -/
def opcodeRows : List OpcodeRow :=
  [⟨0x01000000, 0xFFFFFFFF⟩, ⟨0x02000000, 0xFFFFFFFF⟩, ⟨0x03000000, 0xFFFFFFFF⟩, ⟨0x10000000, 0xFF003FFF⟩,
   ⟨0x11000000, 0xFF0FFFFF⟩, ⟨0x12000000, 0xFF0FFFFF⟩, ⟨0x13000000, 0xFF0FFFFF⟩, ⟨0x20000000, 0xFF0FFF00⟩,
   ⟨0x21000000, 0xFF0FFFFF⟩, ⟨0x30000000, 0xFFFCFFFF⟩, ⟨0x40000000, 0xFFFFFFFF⟩, ⟨0x41000000, 0xFFFFFFFF⟩]

/-! ### The effects of several operations at once, as the rules list them -/

/-- The `RegWrite`s of a list, in order (rule R40). -/
def State.writeAll (s : State) (ws : List (RegId × Word)) : State :=
  ws.foldl (fun t w => t.regWrite w.1 w.2) s

/-- `n` TICK events, one after the other (rule R220). -/
def State.ticked : Nat → State → State
  | 0, s => s
  | n + 1, s => State.ticked n s.tick

/-- The six writes of the calculator's results, the first with the value `ctrl` (rules R140, R237). -/
def timingList (t : TimingImage) (ctrl : Word) : List (RegId × Word) :=
  [(.ctrl, ctrl), (.timv, t.timv), (.timh, t.timh), (.timsize, t.timsize), (.timpol, t.timpol), (.dither, t.dither)]

/-- The address writes of WCFG s3, after the old value `latch` of ALATCH (rule R158). -/
def wcfgAddressList (latch : Word) (i : Win) (l : Layout) (base : Word) (db : Bool) : List (RegId × Word) :=
  [(.alatch, latch &&& ~~~(oneHot i.val)), (.win i .start0, base),
   (.win i .end0, addressWord (base.toNat + l.visible))]
    ++ (if i.val ≤ 1 then
          [(.win i .start1, addressWord (setOneStart l base db)),
           (.win i .end1, addressWord (setOneStart l base db + l.visible))]
        else [])
    ++ [(.alatch, latch ||| oneHot i.val)]

/-- The writes of WCFG s4 to s10 (rules R158, R159). -/
def wcfgProgramList (i : Win) (f : Format) (a : WcfgArgs) (l : Layout) (se bl : Bool) : List (RegId × Word) :=
  [(.win i .size, (word l.panOffset <<< 16) ||| word l.lineStride),
   (.win i .posA, (word a.x <<< 16) ||| word a.y),
   (.win i .posB, (word (a.x + a.width - 1) <<< 16) ||| word (a.y + a.height - 1)),
   (.win i .ctl, f.mode)]
    ++ (if 1 ≤ i.val then
          [(.win i .blend, blendWord (if bl then some a.blendRecord else none)),
           (.win i .key, keyWord f (if bl then some a.blendRecord else none))]
        else [])
    ++ (if se then [(.win i .ctl, f.mode ||| 0x00000001#32)] else [])

/-- The writes of WPAN s2 on the old shadow `sh` (rule R166). -/
def wpanList (sh : EngineRegs) (i : Win) (p : PanPlan) : List (RegId × Word) :=
  [(.alatch, sh.alatch &&& ~~~(oneHot i.val)), (.win i (startReg p.half), addressWord p.start),
   (.win i (endReg p.half), addressWord p.stop)]
    ++ (if sh.bufsel i = p.half then []
        else [(.win i .ctl,
          RegId.wired (.win i .ctl) ((sh.win[i].ctl &&& ~~~0x00000002#32) ||| (flagWord p.half <<< 1)))])
    ++ [(.alatch, sh.alatch ||| oneHot i.val)]

/-- Memory after WCFG s2: zero-filled when the buffer is fresh (rules R155, R157). -/
def State.filled (s : State) (i : Win) (f : Format) (l : Layout) : State :=
  if s.windows[i].reuses f l.length then s
  else { s with env := { s.env with mem := s.env.mem.zeroed s.cfg.fbBase[i].toNat l.length } }

/-- The palette memory with the `Value` entries of the table written (rule R187 f3). -/
def PaletteMem.flushedBy (p : PaletteMem) (t : PendTable) : PaletteMem :=
  { p with words := Vector.ofFn fun k : Fin Config.paletteSize => (t[k]).or p.words[k] }

/-- The effect of `Flush(i)` with the bus clock on (rule R187): nothing when the table is not dirty; else PALUPD[i] is 0
in the shadow and the hardware, PALRAM[i] holds the table's values, HWWRCNT has counted them and the two writes of
PALCTL, and the table is clear. -/
def State.flushed (s : State) (i : Win) : State :=
  match s.pend.dirty[i], s.pend.table[i] with
  | true, some t =>
    { s with
      shadow := { s.shadow with palctl := s.shadow.palctl &&& ~~~(oneHot i.val) }
      engine := { s.engine with
        regs := { s.engine.regs with palctl := s.shadow.palctl &&& ~~~(oneHot i.val) }
        palram := s.engine.palram.set i (s.engine.palram[i].flushedBy t) }
      hwwrcnt := s.hwwrcnt + word (t.values.length + 2)
      pend := s.pend.cleared i }
  | true, none =>
    { s with
      shadow := { s.shadow with palctl := s.shadow.palctl &&& ~~~(oneHot i.val) }
      engine := { s.engine with regs := { s.engine.regs with palctl := s.shadow.palctl &&& ~~~(oneHot i.val) } }
      hwwrcnt := s.hwwrcnt + 2
      pend := s.pend.cleared i }
  | false, _ => s

/-- Handler h4 for window `i` (rule R262): a requested flush, and its request cleared. -/
def State.served (s : State) (i : Win) : State :=
  if s.pend.request[i] then { s.flushed i with pend := (s.flushed i).pend.setRequest i false } else s

/-- RESM s2 to s4 passed: the clocks on, the retry counter 0 (rules R237, R238). -/
def State.powered (s : State) : State :=
  { s with power := { s.power with pstate := .resuming, busclkOn := true, pixclkOn := true, retry := 0 } }

/-- The values that RESM s5 writes: the snapshot in order, OUT_EN of CTRL forced to 0 (rules R233, R237, R239). -/
def restoreList (snap : EngineRegs) : List (RegId × Word) :=
  shadowIds.map fun r =>
    (r, r.wired (if r = .ctrl then snap.get r &&& ~~~0x00000001#32 else snap.get r))

/-- RESM s6 (rules R237, R241): with a configuration, the calculator's results again. -/
def State.rederived (s : State) (t : TimingImage) : State :=
  if s.port.configured then
    s.writeAll (timingList t ((s.shadow.ctrl &&& 0xFFFF00FE#32) ||| (word t.clkval <<< 8)))
  else s

/-- RESM's fail path (rules R237, R242): the clocks off, the engine domain lost, Suspended, PowerSequenceFailed. -/
def State.resumeGivenUp (s : State) : State :=
  (s.gateClocks.setPState .suspended).finish .powerSequenceFailed 0

/-- The first failing check of WCFG for window number `win`, in the order c1 to c11 of rule R154, on the operands as
they stand in the word and in ARG0 to ARG3; `none` when every check passes. -/
def wcfgFirstError (c : ConfigBank) (win : Nat) (fmt : BitVec 2) (db bl : Bool) (a : WcfgArgs) (cap base : Nat) :
    Option Result :=
  let bpp := if fmt = 0 then 1 else if fmt = 1 then 2 else 4
  let stride := a.vwidth * bpp
  let length := (a.vwidth * a.vheight * bpp + 4095) / 4096 * 4096
  if 5 ≤ win then some .invalidWindow
  else if bl = true ∧ win = 0 then some .invalidWindow
  else if db = true ∧ 2 ≤ win then some .invalidWindow
  else if fmt = 3 then some .invalidFormat
  else if bl = true ∧ fmt = 0 then some .invalidFormat
  else if a.width < 1 ∨ a.height < 1 then some .invalidGeometry
  else if c.xres < a.x + a.width ∨ c.yres < a.y + a.height then some .invalidGeometry
  else if a.vwidth < a.width ∨ a.vheight < a.height then some .invalidGeometry
  else if 65535 < stride then some .invalidGeometry
  else if cap < length ∨ 4294967296 < base + length then some .invalidGeometry
  else if db = true ∧ length / 2 < a.height * stride then some .invalidGeometry
  else none

/-- The result codes that a command can end with (rule R251). -/
def mayEndWith : Instr → List Result
  | .timing => [.ok, .invalidTiming, .illegalCommand]
  | .outon => [.ok, .notReady]
  | .outoff => [.ok]
  | .wcfg _ _ _ _ _ _ => [.ok, .invalidWindow, .invalidGeometry, .invalidFormat, .notReady]
  | .wpan _ => [.ok, .invalidWindow, .invalidPan, .notReady]
  | .wen _ => [.ok, .invalidWindow, .notReady]
  | .wdis _ => [.ok, .invalidWindow, .notReady]
  | .pset _ _ => [.ok, .invalidWindow, .invalidFormat]
  | .pflush _ => [.ok, .invalidWindow, .invalidFormat]
  | .vwait _ => [.ok, .illegalCommand]
  | .susp => [.ok]
  | .resm => [.ok, .powerSequenceFailed]

/-- The block after a command's `RegWrite` of `v` to `r` has met a gated engine domain, `depth` masks deep (rules R40, R41,
R245, R256): the fault, the command still running, the interrupt masked, SHADOW[r] written by w1, and every other field
(the registers, HWWRCNT, RESULT, the waiters, the handler, memory, the other shadow words) as it was. -/
def FaultedAt (s t : State) (r : RegId) (v : Word) (depth : Nat) : Prop :=
  ∃ todo : List MicroOp, t =
    { s with
      port := { s.port with fault := some r.offset, csq := .running todo }
      vsync := { s.vsync with maskdepth := s.vsync.maskdepth + depth }
      shadow := s.shadow.put r v }

/-! ### The address map as a list -/

/-- The control-domain offsets below 0x100 that rule R26 names, but for the carve-outs. -/
def namedControl : List Nat :=
  [0x000, 0x004, 0x008, 0x010, 0x014, 0x018, 0x01C, 0x020, 0x024, 0x030, 0x034, 0x038, 0x03C, 0x040, 0x044, 0x048, 0x04C,
   0x050, 0x054, 0x058, 0x05C, 0x060, 0x064, 0x068, 0x080, 0x084, 0x088, 0x08C, 0x090, 0x094, 0x098]

/-- Whether rules R26 and R31 name a register at the offset, with NWIN = 5: the single registers, the carve-outs at
0x0A0 to 0x0C4, the descriptors, the shadowed registers and their shadows, INTPEND and the palettes. -/
def offsetNamed (offset : Nat) : Prop :=
  offset ∈ namedControl ∨ (0x0A0 ≤ offset ∧ offset < 0x0C8)
    ∨ (0x800 ≤ offset ∧ offset < 0x8A0 ∧ offset % 0x20 ≤ 0x10)
    ∨ (∃ r ∈ shadowIds, offset = r.offset ∨ offset = 0x4000 + r.offset) ∨ offset = 0x11C
    ∨ (0x1000 ≤ offset ∧ offset < 0x2400)

/-- The offsets of the engine domain (rule R21). -/
abbrev engineOffset (offset : Nat) : Prop :=
  (0x0100 ≤ offset ∧ offset ≤ 0x03FF) ∨ (0x1000 ≤ offset ∧ offset ≤ 0x2FFF)

/-- The table of rule R31 with the registers' values `e`: the shadowed registers that exist, each at its offset, in
ascending order (rule R233). -/
def registersAt (e : EngineRegs) : List (Nat × Word) :=
  [(0x100, e.ctrl), (0x104, e.timv), (0x108, e.timh), (0x10C, e.timsize), (0x110, e.timpol), (0x114, e.dither),
   (0x118, e.inten), (0x120, e.palctl), (0x124, e.alatch)]
    ++ (List.finRange Config.nwin).flatMap fun i =>
      [(0x200 + 0x40 * i.val, e.win[i].ctl), (0x204 + 0x40 * i.val, e.win[i].posA), (0x208 + 0x40 * i.val, e.win[i].posB),
       (0x20C + 0x40 * i.val, e.win[i].start0), (0x210 + 0x40 * i.val, e.win[i].end0)]
        ++ (if i.val ≤ 1 then [(0x214 + 0x40 * i.val, e.win[i].start1), (0x218 + 0x40 * i.val, e.win[i].end1)] else [])
        ++ [(0x21C + 0x40 * i.val, e.win[i].size)]
        ++ (if 1 ≤ i.val then [(0x220 + 0x40 * i.val, e.win[i].blend), (0x224 + 0x40 * i.val, e.win[i].key)] else [])

/-- The word that an address register holds, as a number: the address itself below 2^32, and 0 for the end address 2^32 of
a buffer that ends with the address space (DEDUCED, log entry 11). -/
def addressWordsHold : Prop :=
  (∀ n, n < 4294967296 → (addressWord n).toNat = n) ∧ addressWord 4294967296 = 0

/-- The block as a whole handler run that starts at `s` leaves it: acknowledged, one vsync counted, every Waiting slot woken
with the count, the requested flushes served in ascending order, the handler idle (rule R262). -/
def State.handled (s : State) : State :=
  (List.finRange Config.nwin).foldl State.served
    { s with
      engine := { s.engine with intpend := false }
      vsync := { s.vsync with
        vscount := s.vsync.vscount + 1
        waiters := s.vsync.waiters.map fun w =>
          if w.state = .waiting then { w with state := .done, val := s.vsync.vscount + 1 } else w } }

/-! ### The compositor as rule R207 lists it -/

/-- The colour that the windows below number `n` compose at a panel pixel (rule R207's `acc` before turn `n`). -/
def State.composedBelow (s : State) (px py n : Nat) : Rgb :=
  ((List.finRange Config.nwin).take n).foldl (s.composeWindow px py) background

/-- The window's pixel value at a panel pixel that it covers (rules R197, R198). -/
def State.pixelAt (s : State) (i : Win) (f : Format) (px py : Nat) : Nat :=
  s.fetchPixel i f (px - bits s.engine.regs.win[i].posA 27 16) (py - bits s.engine.regs.win[i].posA 11 0)

/-- The colour-key match of rule R201 in numbers: `key` is the COMPKEY word, `v` the fetched value, `src` its colour. -/
def keyHits (key : Word) (f : Format) (v : Nat) (src : Rgb) : Prop :=
  if f = .rgb565 then v / 2048 % 32 = bits key 23 19 ∧ v / 32 % 64 = bits key 15 10 ∧ v % 32 = bits key 7 3
  else src.r.toNat = bits key 23 16 ∧ src.g.toNat = bits key 15 8 ∧ src.b.toNat = bits key 7 0

/-! ### Choices one after the other -/

/-- The choices of a list performed in order, none of them the start of a command. -/
def performAll : List Event → State → Host.Outcome State Fault Refusal
  | [], s => .next s
  | e :: es, s =>
    match eventStep e s with
    | .next t => performAll es t
    | .fault r => .fault r
    | .refused r => .refused r

/-! ### Executions and fairness (rule R296) -/

/-- An execution without end: the states, and the choices that each step takes, all of them named. -/
structure Execution where
  state : Nat → State
  chosen : Nat → List Event

/-- Each state steps to the next with exactly its choices, at least one, and none of them is left over. A step that starts
a command takes the choices that fall between its micro-steps with it. -/
def Execution.runs (x : Execution) : Prop :=
  ∀ n, x.chosen n ≠ [] ∧ (x.state (n + 1)).env.schedule = []
    ∧ step { x.state n with env := { (x.state n).env with schedule := x.chosen n } } = .next (x.state (n + 1))

/-- From some point on the condition holds in every state. -/
def Execution.alwaysFrom (x : Execution) (n : Nat) (p : State → Prop) : Prop := ∀ m, n ≤ m → p (x.state m)

/-- The agent is chosen at some later point. -/
def Execution.chosenAfter (x : Execution) (n : Nat) (e : Event) : Prop := ∃ m, n ≤ m ∧ e ∈ x.chosen m

/-- The sequencer has an enabled micro-step: the first of an accepted command, or the next of one in mid-run. -/
def State.sequencerEnabled (s : State) : Bool := s.commandWaits || s.sequencerMayGoOn

/-- The fairness of rule R296, (a) to (d): the sequencer, when it has an enabled micro-step, takes one at that point or
later, a handler run in between or not, unless a fault or a reset ends the command; the handler starts when its entry
condition stays and goes on once started; TICKs keep occurring; and while output and clocks are on so do scan-out steps and
frame starts. Nothing is asked of `domain_ready`. -/
structure Execution.Fair (x : Execution) : Prop where
  sequencer : ∀ n, (x.state n).sequencerEnabled = true → ∃ m, n ≤ m
    ∧ (((x.state m).sequencerEnabled = true ∧ .sequencer ∈ x.chosen m) ∨ (x.state m).faulted = true
      ∨ .reset ∈ x.chosen m)
  handlerStarts : ∀ n, x.alwaysFrom n (fun s => s.faulted = false ∧ s.handlerMayEnter = true) → x.chosenAfter n .handler
  handlerGoesOn : ∀ n, x.alwaysFrom n (fun s => s.faulted = false ∧ s.handlerRunning = true) → x.chosenAfter n .handler
  ticks : ∀ n, x.chosenAfter n .tick
  scanOut : ∀ n, x.alwaysFrom n (fun s => s.faulted = false ∧ s.scanEnabled = true) → x.chosenAfter n .scanOut
  frames : ∀ n, x.alwaysFrom n (fun s => s.faulted = false ∧ s.scanEnabled = true) → x.chosenAfter n .frameStart

/-! ### What holds between the steps of every interleaving -/

/-- The micro-steps of the handler but for the two that end a `RegWrite` (rules R187, R262). -/
def MicroOp.calm : MicroOp → Bool
  | .countVsync => true
  | .wakeWaiters => true
  | .serveFlush _ => true
  | .clearRequest _ => true
  | .regShadow _ _ _ => true
  | .palWrite _ _ _ => true
  | .flushStart _ => true
  | .flushClear _ => true
  | _ => false

/-- The rest of a handler run outside a `RegWrite`: calm micro-steps, then h5 (rule R262). -/
def restOfHandler (ops : List MicroOp) : Prop :=
  ∃ front, ops = front ++ [.handlerReturn] ∧ ∀ op ∈ front, op.calm = true

/-- The handler's micro-steps left beside the mask depth and the shadow `sh`: idle and unmasked; outside a `RegWrite` and
unmasked; or in one, one mask deep, before w2 (with w1's value in the shadow) or before w3 (rules R40, R41, R262). -/
def Handler.steady (h : Handler) (depth : Nat) (sh : EngineRegs) : Prop :=
  match h with
  | .idle => depth = 0
  | .running (.regHardware r v :: .regUnmask :: ops) => depth = 1 ∧ sh.get r = v ∧ restOfHandler ops
  | .running (.regUnmask :: ops) => depth = 1 ∧ restOfHandler ops
  | .running ops => depth = 0 ∧ restOfHandler ops

/-- The handler stands between w1 and w2 of its `RegWrite` of `r` (rule R40). -/
def State.handlerWrites (s : State) (r : RegId) : Prop :=
  ∃ v ops, s.vsync.handler = .running (.regHardware r v :: ops)

/-- No interrupt is pending while output is off: VSYNC_PEND is 1 only while OUT_EN is (rules R143, R188, R222 read with
rule R261: log entry 29, DEDUCED). -/
def Engine.pendingOn (e : Engine) : Prop := e.intpend = true → bit e.regs.ctrl 0 = true

/-- No interrupt pending while output is off; and, in a block that has not faulted, with no command in mid-run (rules R31,
R40, R41, R56 (a) and (b), R230, R231, R272): the mask depth is that of the handler's micro-steps; Active with both clocks
on and SHADOW = REG but for the register that the handler is writing, or Suspended with both clocks off, a snapshot and
the handler idle. -/
def State.Steady (s : State) : Prop :=
  s.engine.pendingOn ∧ (s.port.fault = none →
    (s.port.csq = .idle ∨ s.port.csq = .accepted)
      ∧ s.vsync.handler.steady s.vsync.maskdepth s.shadow
      ∧ ((s.power.pstate = .active ∧ s.power.busclkOn = true ∧ s.power.pixclkOn = true
            ∧ ∀ r ∈ shadowIds, s.shadow.get r = s.engine.regs.get r ∨ s.handlerWrites r)
          ∨ (s.power.pstate = .suspended ∧ s.power.busclkOn = false ∧ s.power.pixclkOn = false
            ∧ s.power.snapshot.isSome = true ∧ s.vsync.handler = .idle)))

/-! ### Legal states between commands (rule R56) -/

/-- What the programmed registers `e` hold for the windows `w` (rules R46, R56 (c), (d), (e)). -/
structure Programmed (e : EngineRegs) (w : PerWindow Window) : Prop where
  noFlush : e.palctl = 0
  enables : ∀ i : Win, w[i].enabled = e.winEn i
  latched : ∀ i : Win, w[i].buffer.isSome → e.latchOn i = true
  strides : ∀ i : Win, w[i].buffer.isSome →
    bits e.win[i].size 15 0 = w[i].lineStride ∧ bits e.win[i].size 31 16 = w[i].panOffset
  starts : ∀ (i : Win) (b : Buffer), w[i].buffer = some b →
    (e.selStart i).toNat = b.base.toNat + w[i].yOffset * w[i].lineStride

/-- What the block knows of a configured window (rules R85, R152, R154, R165): strides that fit their fields, a buffer
below 2^32 with the visible lines inside it, and two halves on windows 0 and 1 only. -/
structure BufferFits (i : Win) (d : Window) (b : Buffer) : Prop where
  stride : 1 ≤ d.lineStride ∧ d.lineStride ≤ 65535
  shown : 1 ≤ d.height
  below : b.base.toNat + b.length ≤ Config.memorySize
  inside : d.yOffset * d.lineStride + d.visible ≤ b.length
  halves : b.double = true → i.val ≤ 1

/-- A block between commands (rules R31, R48, R56, R180, R230, R231): unmasked; Active with the clocks on, the shadow equal
to the hardware and the windows programmed, or Suspended with the clocks off and a snapshot of such registers; the base
window opaque; no BUFSEL on windows 2 and above; a pending table exactly on the Indexed8 windows, dirty exactly when it has a value. -/
structure State.Legal (s : State) : Prop where
  unmasked : s.vsync.maskdepth = 0
  active : s.power.pstate = .active →
    s.power.busclkOn = true ∧ s.power.pixclkOn = true ∧ s.coherent ∧ Programmed s.shadow s.windows
  suspended : s.power.pstate = .suspended →
    s.power.busclkOn = false ∧ s.power.pixclkOn = false
      ∧ ∃ snap, s.power.snapshot = some snap ∧ Programmed snap s.windows
  settled : s.power.pstate = .active ∨ s.power.pstate = .suspended
  buffers : ∀ (i : Win) (b : Buffer), s.windows[i].buffer = some b → BufferFits i s.windows[i] b
  opaqueBase : s.windows[(0 : Win)].blend = none
  oneSurface : ∀ i : Win, 2 ≤ i.val → bit s.shadow.win[i].ctl 1 = false
  tables : ∀ i : Win, s.pend.table[i].isSome = decide (s.windows[i].format = some .indexed8)
  dirtyMarks : ∀ i : Win, s.pend.dirty[i] = true
    ↔ ∃ t, s.pend.table[i] = some t ∧ ∃ k : Fin Config.paletteSize, t[k] ≠ none

/-- The timing registers hold what the calculator gives for the CFG bank and SRCCLK as they are (rules R140, R241). -/
def State.timingHolds (s : State) : Prop :=
  s.port.configured = true →
    ∃ t, s.cfg.timingCalc = some t ∧ s.shadow.ctrl &&& 0x0000FF00#32 = word t.clkval <<< 8
      ∧ s.shadow.timv = t.timv ∧ s.shadow.timh = t.timh ∧ s.shadow.timsize = t.timsize
      ∧ s.shadow.timpol = t.timpol ∧ s.shadow.dither = t.dither

/-- The micro-steps of the handler alone (rule R262). -/
def MicroOp.handlerOnly : MicroOp → Bool
  | .countVsync => true
  | .wakeWaiters => true
  | .serveFlush _ => true
  | .clearRequest _ => true
  | .handlerReturn => true
  | _ => false

/-- The micro-steps that the handler and a command share: `RegWrite`, `PalWrite` and `Flush` (rules R40, R186,
R187). -/
def MicroOp.shared : MicroOp → Bool
  | .regShadow _ _ _ => true
  | .regHardware _ _ => true
  | .regUnmask => true
  | .palWrite _ _ _ => true
  | .flushStart _ => true
  | .flushClear _ => true
  | _ => false

/-- Each agent holds only micro-steps of its own (rules R262, R265): the sequencer none of the handler's, the handler
its own and the shared ones. -/
def State.agentsApart (s : State) : Prop :=
  (∀ op ∈ s.port.csq.todo, op.handlerOnly = false)
    ∧ ∀ op ∈ s.vsync.handler.todo, op.handlerOnly = true ∨ op.shared = true

/-- The block as the host and the other agents can see it, without the model's own fields and STATUS.OVERRUN. -/
structure SameBlock (s t : State) : Prop where
  cmd : t.port.cmd = s.port.cmd
  args : t.port.args = s.port.args
  latch : t.port.latch = s.port.latch
  retval : t.port.retval = s.port.retval
  result : t.port.result = s.port.result
  configured : t.port.configured = s.port.configured
  fault : t.port.fault = s.port.fault
  csq : t.port.csq = s.port.csq
  cfg : t.cfg = s.cfg
  power : t.power = s.power
  vsync : t.vsync = s.vsync
  windows : t.windows = s.windows
  pend : t.pend = s.pend
  shadow : t.shadow = s.shadow
  hwwrcnt : t.hwwrcnt = s.hwwrcnt
  frame : t.frame = s.frame
  engine : t.engine = s.engine

end Sys2Proof.Machine
end

