-- ==== Sys2Proof/Certificates/Slice0/Obligations.lean ====
section
/-! DEFINITION. The statements about the Spica display engine, each a proposition named `Obligations.<Name>`. -/

open Sys2Proof Sys2Proof.Machine

/-! ### Encoding -/

/-- Rules R103, R105: the decoder reads back every well-formed command from its word, all operands at all values. -/
def Obligations.DecodeOfEncode : Prop :=
  ∀ i : Instr, i.wellFormed = true → decodeWord (encode i) = .ok i

/-- Rules R103, R105: a word that decodes is the word of the command it decodes to, which is well-formed. -/
def Obligations.EncodeOfDecode : Prop :=
  ∀ (w : Word) (i : Instr), decodeWord w = .ok i → encode i = w ∧ i.wellFormed = true

/-- Rule R109: a word decodes when it selects a row, at most one row; any other word, zero among them, ends the command
with IllegalCommand and changes no other state. -/
def Obligations.IllegalWords : Prop :=
  (∀ w : Word, (∃ i, decodeWord w = .ok i) ↔ ∃ r ∈ opcodeRows, r.selects w)
    ∧ (∀ w : Word, ∀ r ∈ opcodeRows, ∀ q ∈ opcodeRows, r.selects w → q.selects w → r = q)
    ∧ (∀ (s : State) (e : DecodeError), s.port.csq = .accepted → s.undisturbed → decodeWord s.port.cmd = .error e →
        step s = .next (s.finish .illegalCommand 0))
    ∧ decodeWord 0 = .error (.unlistedOpcode 0)

/-- The words that rules R112, R140, R142, R143, R162, R167, R172, R173, R182, R191, R232 and R237 write out decode to
their commands. -/
def Obligations.SpecWordsDecode : Prop :=
  decodeWord 0x01000000 = .ok .timing ∧ decodeWord 0x10168000 = .ok (.wcfg 1 1 true false true false)
    ∧ decodeWord 0x10070000 = .ok (.wcfg 0 1 true true false false) ∧ decodeWord 0x11000000 = .ok (.wpan 0)
    ∧ decodeWord 0x13000000 = .ok (.wdis 0) ∧ decodeWord 0x20000011 = .ok (.pset 0 17)
    ∧ decodeWord 0x21000000 = .ok (.pflush 0) ∧ decodeWord 0x30020000 = .ok (.vwait 2)
    ∧ decodeWord 0x02000000 = .ok .outon ∧ decodeWord 0x03000000 = .ok .outoff ∧ decodeWord 0x12000000 = .ok (.wen 0)
    ∧ decodeWord 0x40000000 = .ok .susp ∧ decodeWord 0x41000000 = .ok .resm

/-! ### The command port -/

/-- The model's step on an accepted command: it is the meaning of the command that CMD decodes to (rule R100), whether the
sequencer's turn is scheduled or nothing is. That one step runs the WHOLE command, and runs it with nothing scheduled, is
the model's choice (DESIGN CHOICE, log entries 2 and 3): rules R9 and R23 give one micro-step a step. -/
def Obligations.StepRunsDecodedCommand : Prop :=
  ∀ (s : State) (i : Instr), s.port.csq = .accepted → s.port.fault = none → s.vsync.handler = .idle →
    decodeWord s.port.cmd = .ok i →
      (s.env.schedule = [] → step s = exec i s)
        ∧ ∀ es, s.env.schedule = .sequencer :: es → step s = exec i { s with env := { s.env with schedule := es } }

/-- The model's placing of a command (`withFetchWord`, DESIGN CHOICE, log entry 4): the word stands accepted at the doorbell
from every state, the fault, a running handler and the schedule cleared, which rule R101 does not say; the next step
then runs the command that the word decodes to, whole (log entry 3). -/
def Obligations.PlacedWordRuns : Prop :=
  ∀ (s : State) (nbits w : Nat) (i : Instr), decodeTableWord nbits w = some i →
    step (s.withFetchWord nbits w) = exec i (s.withFetchWord nbits w)

/-- Rule R101: an accepted doorbell write sets CMD, the latch, BUSY and CSQ and clears OVERRUN in one step; a write that
is not accepted sets OVERRUN and changes nothing else. -/
def Obligations.DoorbellWrite : Prop :=
  ∀ (s : State) (w : Word),
    (s.busy = false → s.faulted = false → ∃ t, s.hostWrite .word 0x000 w = .next t ∧ t.busy = true
        ∧ t = { s with port := { s.port with cmd := w, latch := s.port.args, overrun := false, csq := .accepted } })
      ∧ (s.busy = true ∨ s.faulted = true →
          s.hostWrite .word 0x000 w = .next { s with port := { s.port with overrun := true } })

/-- Rule R78: a read returns the register's value with no side effect, or raises GatedAccess in a gated engine domain,
whose offsets `engineOffset` gives as numbers (rule R21). -/
def Obligations.HostReads : Prop :=
  ∀ (s : State) (offset : Nat), offset % 4 = 0 → offset < 0x5000 →
    (¬ engineOffset offset →
        s.hostRead .word offset = .next (s.emit (.readData offset (s.portValue offset))))
      ∧ (engineOffset offset → s.port.fault = none → s.power.busclkOn = true →
          s.hostRead .word offset = .next (s.emit (.readData offset (s.portValue offset))))
      ∧ (engineOffset offset → s.port.fault = none → s.power.busclkOn = false →
          s.hostRead .word offset = .next (s.raise offset))
      ∧ ∀ v, SameBlock s (s.emit (.readData offset v))
          ∧ (s.emit (.readData offset v)).port.overrun = s.port.overrun
          ∧ (s.emit (.readData offset v)).env.mem = s.env.mem
          ∧ (s.emit (.readData offset v)).portValue offset = s.portValue offset

/-- Rule R77: an access of another width, at a misaligned offset or at 0x5000 or more has no step. -/
def Obligations.UndefinedAccesses : Prop :=
  ∀ (s : State) (width : Width) (offset : Nat) (v : Word),
    width ≠ .word ∨ offset % 4 ≠ 0 ∨ 0x5000 ≤ offset →
      s.hostRead width offset = .refused (.undefinedAccess offset)
        ∧ s.hostWrite width offset v = .refused (.undefinedAccess offset)

/-- The Lock registers with the mask of their named fields (rule R26). -/
def lockMasks : List (Nat × Word) :=
  [(0x080, 0x1FFF1FFF), (0x084, 0x3FFF3FFF), (0x088, 0x3FFFFFFF), (0x08C, 0x3FFFFFFF), (0x090, 0x0000FFFF),
   (0x094, 0x0000FF0F), (0x098, 0xFFFFFFFF)]
    ++ (List.range 10).map fun k => (0x0A0 + 4 * k, 0xFFFFFFFF)

/-- The offsets a host write can act on (rule R79 (d), (e)): CMD, ARG0 to ARG5, SRCCLK and the Lock registers. -/
def writableOffsets : List Nat :=
  [0x000, 0x010, 0x014, 0x018, 0x01C, 0x020, 0x024, 0x060] ++ lockMasks.map Prod.fst

/-- Rule R79: what a host write does at every offset, those of the engine domain as numbers (rule R21). The clause that a write of SRCCLK while TIMING or RESM runs is
refused is not rule R79's: it is rule R292 with U9 as log entry 17 (DEDUCED) reads them. -/
def Obligations.HostWrites : Prop :=
  ∀ (s : State) (offset : Nat) (v : Word), s.port.fault = none → offset % 4 = 0 → offset < 0x5000 →
    (¬ engineOffset offset → offset ∉ writableOffsets → s.hostWrite .word offset v = .next s)
      ∧ (engineOffset offset → s.power.busclkOn = true → s.hostWrite .word offset v = .next s)
      ∧ (engineOffset offset → s.power.busclkOn = false → s.hostWrite .word offset v = .next (s.raise offset))
      ∧ (∀ k : Fin 6, offset = 0x010 + 4 * k.val → s.hostWrite .word offset v
          = .next { s with port := { s.port with args := s.port.args.set k v } })
      ∧ (offset = 0x060 → s.busy = false ∨ (decodeWord s.port.cmd ≠ .ok .timing ∧ decodeWord s.port.cmd ≠ .ok .resm) →
          s.hostWrite .word offset v = .next { s with cfg := { s.cfg with srcclk := v } })
      ∧ (offset = 0x060 → s.busy = true → decodeWord s.port.cmd = .ok .timing ∨ decodeWord s.port.cmd = .ok .resm →
          s.hostWrite .word offset v = .refused .clockWriteInUse)
      ∧ (∀ m, (offset, m) ∈ lockMasks → s.port.configured = true → s.hostWrite .word offset v = .next s)
      ∧ (∀ m, (offset, m) ∈ lockMasks → s.port.configured = false →
          ∃ c : ConfigBank, s.hostWrite .word offset v = .next { s with cfg := c } ∧ c.srcclk = s.cfg.srcclk
            ∧ State.portValue { s with cfg := c } offset = v &&& m
            ∧ ∀ q ∈ lockMasks, q.1 ≠ offset → State.portValue { s with cfg := c } q.1 = s.portValue q.1)
      ∧ (offset = 0x000 → s.hostWrite .word offset v = .next (s.doorbell v))

/-- Rule R39: SHADOW[r] reads at 0x4000 + r in every power state; the register itself reads at r. Rule R31: the offsets, as
`registersAt` writes them out, and the model's ids with their offsets and values are that table, row by row. -/
def Obligations.ShadowPort : Prop :=
  (∀ (s : State), ∀ r ∈ shadowIds,
    s.portValue (0x4000 + r.offset) = s.shadow.get r ∧ s.portValue r.offset = s.engine.regs.get r
      ∧ ¬ engineOffset (0x4000 + r.offset) ∧ engineOffset r.offset)
    ∧ (∀ (s : State), (∀ p ∈ registersAt s.engine.regs, s.portValue p.1 = p.2)
        ∧ ∀ p ∈ registersAt s.shadow, s.portValue (0x4000 + p.1) = p.2)
    ∧ ∀ e : EngineRegs, shadowIds.map (fun r => (r.offset, e.get r)) = registersAt e

/-- Rules R26, R47: the fields of the descriptor registers, the format's code as a number; bits 31 to 9 of WD_FLAGS read
0. -/
def Obligations.DescriptorRegisters : Prop :=
  ∀ (s : State) (i : Win),
    s.portValue (0x800 + 0x20 * i.val) = s.windows[i].flagsWord
      ∧ bit s.windows[i].flagsWord 0 = s.windows[i].buffer.isSome
      ∧ bit s.windows[i].flagsWord 1 = s.windows[i].enabled
      ∧ bits s.windows[i].flagsWord 3 2 = (match s.windows[i].format with
          | none => 0 | some .indexed8 => 0 | some .rgb565 => 1 | some .rgb888 => 2)
      ∧ s.windows[i].flagsWord.toNat < 512
      ∧ bit s.windows[i].flagsWord 4 = (s.windows[i].buffer.map Buffer.double).getD false
      ∧ bit s.windows[i].flagsWord 5 = s.windows[i].blend.isSome
      ∧ bit s.windows[i].flagsWord 6 = s.windows[i].palDefer
      ∧ bit s.windows[i].flagsWord 7 = (s.windows[i].buffer.map Buffer.committed).getD false
      ∧ bit s.windows[i].flagsWord 8 = s.windows[i].format.isSome
      ∧ s.portValue (0x804 + 0x20 * i.val) = (s.windows[i].buffer.map Buffer.base).getD 0
      ∧ s.portValue (0x808 + 0x20 * i.val) = word ((s.windows[i].buffer.map Buffer.length).getD 0)
      ∧ (s.windows[i].lineStride < 65536 → s.windows[i].panOffset < 65536 →
          (s.portValue (0x80C + 0x20 * i.val)).toNat = s.windows[i].panOffset * 65536 + s.windows[i].lineStride)
      ∧ s.portValue (0x810 + 0x20 * i.val) = word s.windows[i].yOffset

/-- Rules R22, R24 to R30, R41, R216, R250: what the host reads at the offset of every other control register, of INTPEND
and of the palettes, each field in its place as a number; an offset that names no register reads 0 (rules R21, R26). -/
def Obligations.ControlRegisters : Prop :=
  ∀ s : State,
    (s.portValue 0x004).toNat = (if s.port.csq = .idle then 0 else 1) + (if s.port.fault = none then 0 else 2)
        + (if s.port.overrun then 4 else 0) + (if s.port.configured then 8 else 0)
        + 16 * (match s.port.result with
            | .ok => 0 | .invalidWindow => 1 | .invalidGeometry => 2 | .invalidFormat => 3 | .invalidTiming => 4
            | .invalidPan => 5 | .powerSequenceFailed => 7 | .notReady => 14 | .illegalCommand => 15)
      ∧ s.portValue 0x000 = s.port.cmd ∧ s.portValue 0x008 = s.port.retval
      ∧ (∀ k : Fin 6, s.portValue (0x010 + 4 * k.val) = s.port.args[k])
      ∧ (s.portValue 0x030).toNat = (match s.power.pstate with
            | .active => 0 | .suspending => 1 | .suspended => 2 | .resuming => 3)
          + (if s.power.busclkOn then 16 else 0) + (if s.power.pixclkOn then 32 else 0)
      ∧ s.portValue 0x034 = (if 0 < s.vsync.maskdepth then 1 else 0)
      ∧ s.portValue 0x038 = s.vsync.vscount ∧ s.portValue 0x03C = s.hwwrcnt
      ∧ (∀ k : Fin Config.nslot,
          s.portValue (0x040 + 4 * k.val) = (match s.vsync.waiters[k].state with
            | .idle => 0x00 | .waiting => 0x01 | .done => 0x02 | .timedOut => 0x63)
            ∧ s.portValue (0x050 + 4 * k.val) = s.vsync.waiters[k].val)
      ∧ s.portValue 0x060 = s.cfg.srcclk
      ∧ (∀ n, bit (s.portValue 0x064) n = if h : n < Config.nwin then s.pend.dirty[n] else false)
      ∧ (∀ n, bit (s.portValue 0x068) n = if h : n < Config.nwin then s.pend.request[n] else false)
      ∧ s.portValue 0x080 = s.cfg.res ∧ s.portValue 0x084 = s.cfg.vres ∧ s.portValue 0x088 = s.cfg.htim
      ∧ s.portValue 0x08C = s.cfg.vtim ∧ s.portValue 0x090 = s.cfg.refresh ∧ s.portValue 0x094 = s.cfg.misc
      ∧ s.portValue 0x098 = s.cfg.phys
      ∧ (∀ i : Win, s.portValue (0x0A0 + 8 * i.val) = s.cfg.fbBase[i] ∧ s.portValue (0x0A4 + 8 * i.val) = s.cfg.fbCap[i])
      ∧ s.portValue 0x11C = (if s.engine.intpend then 1 else 0)
      ∧ (∀ (i : Win) (k : Fin Config.paletteSize), s.portValue (0x1000 + 0x400 * i.val + 4 * k.val)
          = (s.engine.palram[i].words[k]).getD (Config.freePaletteWord s.engine.palram[i].gen i.val k.val))
      ∧ ∀ offset, offset < 0x5000 → offset % 4 = 0 → ¬ offsetNamed offset → s.portValue offset = 0

/-- Rule R141 and rule R79 (a): once configured, no step but reset changes the CFG bank or the carve-outs, whatever the
host writes and whatever is scheduled; the block stays configured. -/
def Obligations.ConfigurationStaysLocked : Prop :=
  ∀ s t : State, s.port.configured = true → Event.reset ∉ s.env.schedule → step s = .next t →
    t.port.configured = true ∧ t.cfg = { s.cfg with srcclk := t.cfg.srcclk } ∧ Event.reset ∉ t.env.schedule

/-! ### The timing calculator and the output commands -/

/-- Rule R131: the calculator's inputs as numbers of the words of the CFG bank, each at its place of rule R26. Rule R138:
when `TimingCalc` succeeds and with which divider. -/
def Obligations.TimingCalculator : Prop :=
  (∀ c : ConfigBank, (c.xres = c.res.toNat % 8192 ∧ c.yres = c.res.toNat / 65536 % 8192)
    ∧ (c.hfp = c.htim.toNat % 1024 ∧ c.hsw = c.htim.toNat / 1024 % 1024 ∧ c.hbp = c.htim.toNat / 1048576 % 1024)
    ∧ (c.vfp = c.vtim.toNat % 1024 ∧ c.vsw = c.vtim.toNat / 1024 % 1024 ∧ c.vbp = c.vtim.toNat / 1048576 % 1024)
    ∧ c.refreshHz = c.refresh.toNat % 65536 ∧ c.pol = c.misc.toNat % 16 ∧ c.ditherSpec = c.misc.toNat / 256 % 256)
  ∧ ∀ (c : ConfigBank) (t : TimingImage), c.timingCalc = some t ↔
    (∀ n ∈ [c.hfp, c.hsw, c.hbp, c.vfp, c.vsw, c.vbp], 1 ≤ n ∧ n ≤ 256)
      ∧ (1 ≤ c.xres ∧ c.xres ≤ 4096) ∧ (1 ≤ c.yres ∧ c.yres ≤ 4096)
      ∧ ∃ target d0 : Nat, target = c.refreshHz * (c.hfp + c.hsw + c.hbp + c.xres) * (c.vfp + c.vsw + c.vbp + c.yres)
        ∧ target ≠ 0 ∧ d0 = c.srcclk.toNat / target
        ∧ (((c.srcclk.toNat * 10 / target) % 10 ≤ 4 ∧ 1 ≤ d0 ∧ d0 ≤ 256 ∧ t = c.images d0
              ∧ t.div = d0)
          ∨ (5 ≤ (c.srcclk.toNat * 10 / target) % 10 ∧ 2 ≤ d0 ∧ d0 ≤ 257 ∧ t = c.images (d0 - 1)
              ∧ t.div = d0 - 1))

/-- Rule R136: the register images as numbers, each field in its place with nothing cut off. -/
def Obligations.TimingImages : Prop :=
  ∀ (c : ConfigBank) (t : TimingImage), c.timingCalc = some t →
    t.clkval + 1 = t.div ∧ t.clkval < 256
      ∧ t.timv.toNat = (c.vbp - 1) * 65536 + (c.vfp - 1) * 256 + (c.vsw - 1)
      ∧ t.timh.toNat = (c.hbp - 1) * 65536 + (c.hfp - 1) * 256 + (c.hsw - 1)
      ∧ t.timsize.toNat = (c.yres - 1) * 65536 + (c.xres - 1)
      ∧ t.timpol.toNat = c.pol ∧ t.dither.toNat = c.ditherSpec

/-- Rule R139: the source's worked example, with the totals, the target, the tenths, the divider and the images. -/
def Obligations.TimingWorkedExample : Prop :=
  ∀ c : ConfigBank, c.srcclk = 12000000 → c.xres = 320 → c.yres = 480 → c.hfp = 10 → c.hsw = 10 → c.hbp = 10 →
    c.vfp = 3 → c.vsw = 2 → c.vbp = 8 → c.refreshHz = 60 →
      c.hTotal = 350 ∧ c.vTotal = 493 ∧ c.target = 10353000 ∧ tenths c.srcclk.toNat c.target = 1
        ∧ ∃ t, c.timingCalc = some t ∧ t.div = 1 ∧ t.clkval = 0 ∧ t.timv = 0x00070201 ∧ t.timh = 0x00090909
          ∧ t.timsize = 0x01DF013F

/-- Rule R40: `RegWrite` with the bus clock on and nothing between its micro-steps: the shadow and the register hold the
value, HWWRCNT has counted one, MASKDEPTH is as before, nothing else has changed but the effect of an OUT_EN edge
(whose fall clears VSYNC_PEND: log entry 29, DEDUCED). -/
def Obligations.RegWriteEffect : Prop :=
  ∀ (s : State) (r : RegId) (v : Word),
    s.regWrite r v
        = { s with
            shadow := s.shadow.put r v
            hwwrcnt := s.hwwrcnt + 1
            engine := Engine.outputEdge { s.engine with regs := s.engine.regs.put r v } s.engine.regs.outEn }
      ∧ (∀ q, (s.regWrite r v).shadow.get q = if q = r then v else s.shadow.get q)
      ∧ ∀ q, (s.regWrite r v).engine.regs.get q = if q = r then v else s.engine.regs.get q

/-- Rule R140: TIMING in full: refused once configured, refused by the calculator, completed with its six writes, or
faulted at the first of them. -/
def Obligations.TimingCommand : Prop :=
  ∀ s : State,
    (s.port.configured = true → exec .timing s = .next (s.finish .illegalCommand 0))
      ∧ (s.port.configured = false → s.cfg.timingCalc = none → exec .timing s = .next (s.finish .invalidTiming 0))
      ∧ ∀ t, s.port.configured = false → s.cfg.timingCalc = some t → s.undisturbed →
          (s.clocked → exec .timing s = .next (State.finish
            { s.writeAll (timingList t ((s.shadow.ctrl &&& 0x00000001#32) ||| (word t.clkval <<< 8))) with
              port := { s.port with configured := true } } .ok (word t.div)))
          ∧ (s.power.busclkOn = false → ∃ u, exec .timing s = .next u
              ∧ FaultedAt s u .ctrl ((s.shadow.ctrl &&& 0x00000001#32) ||| (word t.clkval <<< 8)) 1)

/-- Rule R142: OUTON in full: NotReady, or VSYNC_IE and OUT_EN written in that order, the rise of OUT_EN performing the
frame-start load without a vsync; or the fault at INTEN. -/
def Obligations.OutonCommand : Prop :=
  ∀ s : State,
    (s.port.configured = false → exec .outon s = .next (s.finish .notReady 0))
      ∧ (s.port.configured = true → s.undisturbed → s.clocked →
          exec .outon s = .next (State.finish
            { s with
              shadow := { s.shadow with inten := 0x00000001, ctrl := s.shadow.ctrl ||| 0x00000001#32 }
              hwwrcnt := s.hwwrcnt + 2
              engine :=
                if bit s.engine.regs.ctrl 0 then
                  { s.engine with regs :=
                      { s.engine.regs with inten := 0x00000001, ctrl := s.shadow.ctrl ||| 0x00000001#32 } }
                else Engine.frameStartLoad
                  { s.engine with regs :=
                      { s.engine.regs with inten := 0x00000001, ctrl := s.shadow.ctrl ||| 0x00000001#32 } } } .ok 0))
      ∧ (s.port.configured = true → s.undisturbed → s.power.busclkOn = false →
          ∃ u, exec .outon s = .next u ∧ FaultedAt s u .inten 0x00000001 1)

/-- Rule R143: OUTOFF in full: OUT_EN written 0 with no check, the raster cut short if it was 1; or the fault at CTRL. That
VSYNC_PEND falls with OUT_EN, so that no handler runs while output is off, is log entry 29 (DEDUCED). -/
def Obligations.OutoffCommand : Prop :=
  ∀ s : State, s.undisturbed →
    (s.clocked → exec .outoff s = .next (State.finish
        { s with
          shadow := { s.shadow with ctrl := s.shadow.ctrl &&& ~~~0x00000001#32 }
          hwwrcnt := s.hwwrcnt + 1
          engine :=
            { s.engine with
              regs := { s.engine.regs with ctrl := s.shadow.ctrl &&& ~~~0x00000001#32 }
              cur := if bit s.engine.regs.ctrl 0 then .idle else s.engine.cur
              intpend := if bit s.engine.regs.ctrl 0 then false else s.engine.intpend } } .ok 0))
      ∧ (s.power.busclkOn = false →
          ∃ u, exec .outoff s = .next u ∧ FaultedAt s u .ctrl (s.shadow.ctrl &&& ~~~0x00000001#32) 1)

/-! ### Windows -/

/-- Rule R107: WCFG's operands as numbers of the latched arguments. Rules R111 (1), R154: WCFG's refusals: NotReady before
bring-up; then the first failing check decides the code and nothing else changes; with no failing check the layout is what
rules R151 to R153 compute. -/
def Obligations.WcfgChecks : Prop :=
  (∀ s : State, s.wcfgArgs =
      { x := s.port.latch[0].toNat / 65536 % 8192, y := s.port.latch[0].toNat % 8192
        width := s.port.latch[1].toNat / 65536 % 8192, height := s.port.latch[1].toNat % 8192
        vwidth := s.port.latch[2].toNat / 65536 % 16384, vheight := s.port.latch[2].toNat % 16384
        alpha := BitVec.ofNat 8 (s.port.latch[3].toNat / 16777216)
        keyR := BitVec.ofNat 8 (s.port.latch[3].toNat / 65536)
        keyG := BitVec.ofNat 8 (s.port.latch[3].toNat / 256)
        keyB := BitVec.ofNat 8 s.port.latch[3].toNat })
  ∧ (Format.indexed8.bpp = 1 ∧ Format.rgb565.bpp = 2 ∧ Format.rgb888.bpp = 4)
  ∧ ∀ (s : State) (win : Nat) (fmt : BitVec 2) (se db bl pd : Bool),
    (s.port.configured = false → exec (.wcfg win fmt se db bl pd) s = .next (s.finish .notReady 0))
      ∧ (s.port.configured = true → 5 ≤ win →
          exec (.wcfg win fmt se db bl pd) s = .next (s.finish .invalidWindow 0))
      ∧ ∀ i : Win, win = i.val →
          (∀ e, s.port.configured = true →
              wcfgFirstError s.cfg win fmt db bl s.wcfgArgs s.cfg.fbCap[i].toNat s.cfg.fbBase[i].toNat = some e →
                exec (.wcfg win fmt se db bl pd) s = .next (s.finish e 0))
          ∧ (wcfgFirstError s.cfg win fmt db bl s.wcfgArgs s.cfg.fbCap[i].toNat s.cfg.fbBase[i].toNat = none →
              ∃ f l, wcfgCheck s.cfg i fmt db bl s.wcfgArgs = .ok (f, l)
                ∧ fmt.toNat = (match f with | .indexed8 => 0 | .rgb565 => 1 | .rgb888 => 2)
                ∧ l.lineStride = s.wcfgArgs.vwidth * f.bpp
                ∧ l.panOffset = (s.wcfgArgs.vwidth - s.wcfgArgs.width) * f.bpp
                ∧ l.length % 4096 = 0 ∧ s.wcfgArgs.vwidth * s.wcfgArgs.vheight * f.bpp ≤ l.length
                ∧ l.length < s.wcfgArgs.vwidth * s.wcfgArgs.vheight * f.bpp + 4096
                ∧ l.visible = s.wcfgArgs.height * l.lineStride ∧ l.half * 2 = l.length)

/-- Rule R158: WCFG past its checks: the zero-fill of a fresh buffer, the writes in their order, the descriptor and the
palette table; or, with the bus clock off, the fault at ALATCH after the zero-fill. The address words as numbers: that the
end 2^32 of a buffer that check c10 admits is written as 0 is not rule R158's but log entry 11 (DEDUCED). -/
def Obligations.WcfgCommand : Prop :=
  addressWordsHold ∧ ∀ (s : State) (i : Win) (fmt : BitVec 2) (se db bl pd : Bool) (f : Format) (l : Layout),
    s.port.configured = true → s.undisturbed → wcfgCheck s.cfg i fmt db bl s.wcfgArgs = .ok (f, l) →
      (s.clocked → exec (.wcfg i.val fmt se db bl pd) s = .next (State.finish
        { (s.filled i f l).writeAll (wcfgAddressList s.shadow.alatch i l s.cfg.fbBase[i] db
              ++ wcfgProgramList i f s.wcfgArgs l se bl) with
          windows := s.windows.set i (windowRecord f s.wcfgArgs l s.cfg.fbBase[i] se db bl pd)
          pend := s.pend.reformat i f } .ok 0))
      ∧ (s.power.busclkOn = false → ∃ u, exec (.wcfg i.val fmt se db bl pd) s = .next u
          ∧ FaultedAt (s.filled i f l) u .alatch (s.shadow.alatch &&& ~~~(oneHot i.val)) 2)

/-- The numbers that WCFG writes, and that the compositor reads them back: the mode codes (rule R156), the blend and key
words (rule R159; both layouts are the spec's general-knowledge numbers, log entry 22), the descriptor (rule R158 s11) and
the palette table of the new format (rule R181). -/
def Obligations.WcfgWords : Prop :=
  (Format.indexed8.mode = 0x0000004C ∧ Format.rgb565.mode = 0x00000094 ∧ Format.rgb888.mode = 0x0000002C)
    ∧ (∀ f : Format, modeFormat f.mode = some f ∧ modeFormat (f.mode ||| 0x00000001#32) = some f
        ∧ bit f.mode 0 = false ∧ bit f.mode 1 = false)
    ∧ (∀ f : Format, blendWord none = 0 ∧ keyWord f none = 0)
    ∧ (∀ b : Blend, (blendWord (some b)).toNat = 256 * b.alpha.toNat + 3
        ∧ (keyWord .rgb565 (some b)).toNat = 524288 * (b.keyR.toNat % 32) + 0x70000 + 1024 * (b.keyG.toNat % 64) + 0x300
            + 8 * (b.keyB.toNat % 32) + 7
        ∧ (keyWord .rgb888 (some b)).toNat = 65536 * b.keyR.toNat + 256 * b.keyG.toNat + b.keyB.toNat)
    ∧ (∀ (b : Blend) (v : Nat) (src : Rgb),
        (keyMatches (keyWord .rgb565 (some b)) .rgb565 v src = true ↔ v / 2048 % 32 = b.keyR.toNat % 32
            ∧ v / 32 % 64 = b.keyG.toNat % 64 ∧ v % 32 = b.keyB.toNat % 32)
          ∧ (keyMatches (keyWord .rgb888 (some b)) .rgb888 v src = true
              ↔ src = { r := b.keyR, g := b.keyG, b := b.keyB }))
    ∧ (∀ (f : Format) (a : WcfgArgs) (l : Layout) (base : Word) (se db bl pd : Bool),
        windowRecord f a l base se db bl pd =
          { format := some f, x := a.x, y := a.y, width := a.width, height := a.height, vwidth := a.vwidth,
            vheight := a.vheight, lineStride := l.lineStride, panOffset := l.panOffset, yOffset := 0,
            buffer := some { base := base, length := l.length, double := db, committed := false }, enabled := se,
            blend := if bl then some { keyR := a.keyR, keyG := a.keyG, keyB := a.keyB, alpha := a.alpha } else none,
            palDefer := pd })
    ∧ ∀ (p : PalettePending) (i j : Win),
        ((p.reformat i .indexed8).table[i] = some ((p.table[i]).getD (Vector.replicate 256 none))
            ∧ (p.reformat i .indexed8).dirty = p.dirty ∧ (p.reformat i .indexed8).request = p.request)
          ∧ (∀ f : Format, f ≠ .indexed8 → (p.reformat i f).table[i] = none ∧ (p.reformat i f).dirty[i] = false
              ∧ (p.reformat i f).request[i] = false)
          ∧ ∀ f : Format, j ≠ i → (p.reformat i f).table[j] = p.table[j] ∧ (p.reformat i f).dirty[j] = p.dirty[j]
              ∧ (p.reformat i f).request[j] = p.request[j]

/-- Rule R155: a buffer is reused when the window has one of that length under that format. Rules R155, R157: after WCFG
every byte of a fresh buffer reads 0, and every other byte of memory, or every byte when the buffer is reused, reads as
before. With the platform's obligations as a premise (rule R82) no byte of another
configured window's carve-out has changed. -/
def Obligations.WcfgMemory : Prop :=
  (∀ (d : Window) (f : Format) (length : Nat), d.reuses f length = true
      ↔ ∃ b, d.buffer = some b ∧ b.length = length ∧ d.format = some f)
  ∧ ∀ (s t : State) (i : Win) (fmt : BitVec 2) (se db bl pd : Bool) (f : Format) (l : Layout),
    s.undisturbed → s.port.configured = true → wcfgCheck s.cfg i fmt db bl s.wcfgArgs = .ok (f, l) →
      exec (.wcfg i.val fmt se db bl pd) s = .next t →
        (∀ a, a < Config.memorySize → t.env.mem.read a =
          if s.windows[i].reuses f l.length = false ∧ s.cfg.fbBase[i].toNat ≤ a ∧ a < s.cfg.fbBase[i].toNat + l.length
          then 0 else s.env.mem.read a)
        ∧ ∀ (configured : Win → Prop) (j : Win) (a : Nat), platformObligations s.cfg configured → configured i →
            configured j → j ≠ i → s.cfg.fbBase[j].toNat ≤ a → a < s.cfg.fbBase[j].toNat + s.cfg.fbCap[j].toNat →
              t.env.mem.read a = s.env.mem.read a

/-- Rule R108: WPAN's operand is all of the latched ARG0. Rules R164 to R166: WPAN in full: NotReady, InvalidWindow, InvalidPan, the latch sequence with the two addresses and
the half's BUFSEL, or the fault at ALATCH. The address words as numbers: that an end of 2^32 is written as 0 is log entry
11 (DEDUCED). On windows 2 and above the written WINCTL has BUFSEL at 0, in the shadow too: rule R31 as log entry 21
(DEDUCED) reads it. -/
def Obligations.WpanCommand : Prop :=
  (∀ s : State, s.panArg = s.port.latch[0].toNat) ∧ addressWordsHold ∧ ∀ (s : State),
    (∀ win, s.port.configured = false → exec (.wpan win) s = .next (s.finish .notReady 0))
      ∧ (∀ win, s.port.configured = true → 5 ≤ win → exec (.wpan win) s = .next (s.finish .invalidWindow 0))
      ∧ ∀ i : Win, s.port.configured = true →
          (s.windows[i].buffer = none → exec (.wpan i.val) s = .next (s.finish .invalidPan 0))
          ∧ ∀ b, s.windows[i].buffer = some b →
              (b.length < s.panArg * s.windows[i].lineStride + s.windows[i].height * s.windows[i].lineStride →
                exec (.wpan i.val) s = .next (s.finish .invalidPan 0))
              ∧ ∀ p : PanPlan,
                  s.panArg * s.windows[i].lineStride + s.windows[i].height * s.windows[i].lineStride ≤ b.length →
                  p.start = b.base.toNat + s.panArg * s.windows[i].lineStride →
                  p.stop = p.start + s.windows[i].height * s.windows[i].lineStride →
                  (p.half = true ↔ b.double = true ∧ b.length / 2 ≤ s.panArg * s.windows[i].lineStride) →
                  s.undisturbed →
                    (s.clocked → exec (.wpan i.val) s = .next (State.finish
                      { s.writeAll (wpanList s.shadow i p) with
                        windows := s.windows.set i { s.windows[i] with
                          yOffset := s.panArg, buffer := some { b with committed := p.half } } } .ok 0))
                    ∧ (s.power.busclkOn = false → ∃ u, exec (.wpan i.val) s = .next u
                        ∧ FaultedAt s u .alatch (s.shadow.alatch &&& ~~~(oneHot i.val)) 2)

/-- Rule R167 (a): configure_window followed by pan(0) leaves the selected start address at the buffer's base and the end
address as WCFG wrote it. -/
def Obligations.IdentityPan : Prop :=
  ∀ (s t u : State) (i : Win) (fmt : BitVec 2) (se db bl pd : Bool) (f : Format) (l : Layout),
    s.undisturbed → s.clocked → s.port.configured = true → wcfgCheck s.cfg i fmt db bl s.wcfgArgs = .ok (f, l) →
      exec (.wcfg i.val fmt se db bl pd) s = .next t →
      (∃ x : Vector Word 6, u = { t with port := { t.port with latch := x } }) → u.port.latch[0] = 0 →
        ∃ v, exec (.wpan i.val) u = .next v ∧ v.port.result = .ok
          ∧ v.shadow.selStart i = s.cfg.fbBase[i] ∧ v.engine.regs.selStart i = s.cfg.fbBase[i]
          ∧ v.shadow.selEnd i = t.shadow.selEnd i ∧ v.engine.regs.selEnd i = t.engine.regs.selEnd i
          ∧ v.windows[i].yOffset = 0

/-- Rules R166, R169, R170, R289: a pan leaves the active latches as they are, and the first frame start after it loads
the new addresses, whichever half they lie in. The words as numbers: that an end of 2^32 stands in ACT_END as 0 is log
entry 11 (DEDUCED). -/
def Obligations.PanReachesScanoutAtFrameStart : Prop :=
  addressWordsHold ∧ ∀ (s t : State) (i : Win) (p : PanPlan), s.undisturbed → s.clocked → s.port.configured = true →
    s.shadow.win[i].ctl = s.engine.regs.win[i].ctl → (p.half = true → i.val ≤ 1) →
    s.windows[i].panPlan s.panArg = some p → exec (.wpan i.val) s = .next t →
      t.engine.actStart = s.engine.actStart ∧ t.engine.actEnd = s.engine.actEnd
        ∧ t.frameStart.engine.actStart[i] = addressWord p.start ∧ t.frameStart.engine.actEnd[i] = addressWord p.stop

/-- Rule R172: WEN in full. On windows 2 and above the written value has BUFSEL at 0, in the shadow too: that is rule R31 as
log entry 21 (DEDUCED) reads it, not rule R172. -/
def Obligations.WenCommand : Prop :=
  ∀ (s : State),
    (∀ win, s.port.configured = false → exec (.wen win) s = .next (s.finish .notReady 0))
      ∧ (∀ win, s.port.configured = true → 5 ≤ win → exec (.wen win) s = .next (s.finish .invalidWindow 0))
      ∧ ∀ i : Win, s.port.configured = true →
          (s.windows[i].buffer = none → exec (.wen i.val) s = .next (s.finish .invalidWindow 0))
          ∧ (s.windows[i].buffer.isSome → s.undisturbed → s.clocked →
              exec (.wen i.val) s = .next (State.finish
                { s.regWrite (.win i .ctl)
                    (RegId.wired (.win i .ctl) (s.shadow.win[i].ctl ||| 0x00000001#32)) with
                  windows := s.windows.set i { s.windows[i] with enabled := true } } .ok 0))
          ∧ (s.windows[i].buffer.isSome → s.undisturbed → s.power.busclkOn = false →
              ∃ u, exec (.wen i.val) s = .next u ∧ FaultedAt s u (.win i .ctl)
                (RegId.wired (.win i .ctl) (s.shadow.win[i].ctl ||| 0x00000001#32)) 1)

/-- Rule R173: WDIS in full, a window never configured among its forms; a second WDIS changes HWWRCNT alone. On windows 2
and above the written value has BUFSEL at 0, in the shadow too: that is rule R31 as log entry 21 (DEDUCED) reads it, not
rule R173. -/
def Obligations.WdisCommand : Prop :=
  ∀ (s : State),
    (∀ win, s.port.configured = false → exec (.wdis win) s = .next (s.finish .notReady 0))
      ∧ (∀ win, s.port.configured = true → 5 ≤ win → exec (.wdis win) s = .next (s.finish .invalidWindow 0))
      ∧ ∀ i : Win, s.port.configured = true → s.undisturbed →
          (s.clocked → exec (.wdis i.val) s = .next (State.finish
              { s.regWrite (.win i .ctl)
                  (RegId.wired (.win i .ctl) (s.shadow.win[i].ctl &&& ~~~0x00000001#32)) with
                windows := s.windows.set i { s.windows[i] with enabled := false } } .ok 0))
          ∧ (s.clocked → ∀ t, exec (.wdis i.val) s = .next t →
              exec (.wdis i.val) t = .next { t with hwwrcnt := t.hwwrcnt + 1 })
          ∧ (s.power.busclkOn = false → ∃ u, exec (.wdis i.val) s = .next u ∧ FaultedAt s u (.win i .ctl)
              (RegId.wired (.win i .ctl) (s.shadow.win[i].ctl &&& ~~~0x00000001#32)) 1)

/-! ### The palette -/

/-- Rule R182: PSET in full, in one micro-step (rules R91, R265), so from every state; it needs no clock. -/
def Obligations.PsetCommand : Prop :=
  ∀ (s : State) (idx : Nat),
    (∀ win, 5 ≤ win → exec (.pset win idx) s = .next (s.finish .invalidWindow 0))
      ∧ ∀ i : Win,
          (s.windows[i].format ≠ some .indexed8 → exec (.pset i.val idx) s = .next (s.finish .invalidFormat 0))
          ∧ ∀ (k : Fin Config.paletteSize) (t : PendTable), idx = k.val → s.windows[i].format = some .indexed8 →
              s.pend.table[i] = some t →
                exec (.pset i.val idx) s = .next (State.finish
                  { s with pend := { s.pend with
                      table := s.pend.table.set i (some (t.set k (some s.port.latch[0])))
                      dirty := s.pend.dirty.set i true } } .ok 0)

/-- Rules R184, R185, R187: PFLUSH in full: its refusals, the deferred request, the immediate flush, the flush with nothing
pending, which writes nothing and changes nothing but the result in every power state, and the fault of an immediate
flush of a dirty table at PALCTL with the bus clock off. -/
def Obligations.PflushCommand : Prop :=
  ∀ (s : State),
    (∀ win, 5 ≤ win → exec (.pflush win) s = .next (s.finish .invalidWindow 0))
      ∧ ∀ i : Win,
          (s.windows[i].format ≠ some .indexed8 → exec (.pflush i.val) s = .next (s.finish .invalidFormat 0))
          ∧ (s.windows[i].format = some .indexed8 → s.undisturbed →
              (s.windows[i].palDefer = true → exec (.pflush i.val) s = .next (State.finish
                  { s with pend := { s.pend with request := s.pend.request.set i true } } .ok 0))
              ∧ (s.windows[i].palDefer = false → s.clocked →
                  exec (.pflush i.val) s = .next ((s.flushed i).finish .ok 0))
              ∧ (s.windows[i].palDefer = false → s.pend.dirty[i] = false →
                  exec (.pflush i.val) s = .next (s.finish .ok 0))
              ∧ (s.windows[i].palDefer = false → s.pend.dirty[i] = true → s.power.busclkOn = false →
                  ∃ u, exec (.pflush i.val) s = .next u ∧ FaultedAt s u .palctl (s.shadow.palctl ||| oneHot i.val) 2))

/-- Rules R183 (b), R187, R191: PSET then PFLUSH: the colour last set stands in PALRAM, every other word of PALRAM is as
before, and the pending table is clear. -/
def Obligations.ColourReachesPalette : Prop :=
  ∀ (s t u : State) (i : Win) (k : Fin Config.paletteSize), s.undisturbed → s.clocked →
    s.windows[i].format = some .indexed8 → s.windows[i].palDefer = false →
    s.pend.table[i] = some PendTable.clear →
    exec (.pset i.val k.val) s = .next t → exec (.pflush i.val) t = .next u →
      u.engine.palram[i].words[k] = some s.port.latch[0] ∧ u.hwwrcnt = s.hwwrcnt + 3
        ∧ u.pend.table[i] = some PendTable.clear ∧ u.pend.dirty[i] = false
        ∧ (∀ j : Fin Config.paletteSize, j ≠ k → u.engine.palram[i].words[j] = s.engine.palram[i].words[j])
        ∧ ∀ j : Win, j ≠ i → u.engine.palram[j] = s.engine.palram[j]

/-! ### Vsync -/

/-- Rule R218: VWAIT in full, on every slot. -/
def Obligations.VwaitCommand : Prop :=
  ∀ (s : State) (k : Fin Config.nslot),
    (s.vsync.waiters[k].state = .waiting → exec (.vwait k.val) s = .next (s.finish .illegalCommand 0))
      ∧ (s.vsync.waiters[k].state ≠ .waiting → exec (.vwait k.val) s = .next (State.finish
          { s with vsync := { s.vsync with
              waiters := s.vsync.waiters.set k
                ({ state := .waiting, snap := s.vsync.vscount, rem := s.port.latch[0], val := 0 } : Waiter) } }
          .ok s.vsync.vscount))

/-- Rule R260: the frame-start event, enabled or not; the write that raises OUT_EN performs the load alone. -/
def Obligations.FrameStartEvent : Prop :=
  ∀ s : State,
    (bit s.engine.regs.ctrl 0 = true → s.power.pixclkOn = true → s.power.busclkOn = true → s.engine.cur = .idle →
      s.port.fault = none → ∃ t, eventStep .frameStart s = .next t
        ∧ t = { s with
            frame := s.frame + 1
            engine := { s.engine with
              actStart := t.engine.actStart, actEnd := t.engine.actEnd, actpal := t.engine.actpal, cur := .at 0 0
              intpend := if bit s.engine.regs.inten 0 then true else s.engine.intpend } }
        ∧ ∀ i : Win,
            t.engine.actStart[i] = (if bit s.engine.regs.alatch i.val then
              (if i.val ≤ 1 ∧ bit s.engine.regs.win[i].ctl 1 = true then s.engine.regs.win[i].start1
               else s.engine.regs.win[i].start0) else s.engine.actStart[i])
            ∧ t.engine.actEnd[i] = (if bit s.engine.regs.alatch i.val then
              (if i.val ≤ 1 ∧ bit s.engine.regs.win[i].ctl 1 = true then s.engine.regs.win[i].end1
               else s.engine.regs.win[i].end0) else s.engine.actEnd[i])
            ∧ t.engine.actpal[i] =
              (if bit s.engine.regs.palctl i.val then s.engine.actpal[i] else s.engine.palram[i]))
      ∧ (bit s.engine.regs.ctrl 0 = false ∨ s.power.pixclkOn = false ∨ s.power.busclkOn = false ∨ s.engine.cur ≠ .idle
          ∨ s.port.fault ≠ none → eventStep .frameStart s = .next s)
      ∧ ∀ v : Word, bit s.engine.regs.ctrl 0 = false → bit v 0 = true →
          (s.regWrite .ctrl v).engine = Engine.frameStartLoad { s.engine with regs := { s.engine.regs with ctrl := v } }
            ∧ (s.regWrite .ctrl v).frame = s.frame ∧ (s.regWrite .ctrl v).engine.intpend = s.engine.intpend

/-- Rules R261, R262: a handler run with no command in progress: entered on its condition only, it acknowledges, counts
once, wakes every waiting slot, serves the requested flushes in ascending order, and returns. In the middle of a command, at
mask depth 0, it does the same between two of the command's micro-steps, and the command then goes on with those it had
left. Rule R263: while it runs the sequencer has no step and the handler is not entered again. Rules R35, R259: VSYNC_PEND
rises by a frame start with VSYNC_IE at 1 alone, and falls by the handler's entry, gating and reset, and by the fall of
OUT_EN, which those rules do not list (log entry 29, DEDUCED), alone. -/
def Obligations.HandlerRun : Prop :=
  (∀ s : State, s.vsync.handler = .idle →
      s.engine.intpend = false ∨ s.vsync.maskdepth ≠ 0 ∨ s.power.busclkOn = false ∨ s.port.fault ≠ none →
        eventStep .handler s = .next s)
    ∧ (∀ s : State, s.vsync.handler = .idle → s.engine.intpend = true → s.vsync.maskdepth = 0 →
        s.power.busclkOn = true → s.port.fault = none →
          (∃ t, eventStep .handler s = .next t ∧ t.engine = { s.engine with intpend := false } ∧ t.port = s.port
            ∧ t.vsync.vscount = s.vsync.vscount ∧ t.vsync.handler ≠ .idle)
          ∧ (s.port.csq = .idle ∨ s.port.csq = .accepted → s.env.schedule = [.handler] →
              ∃ t, step s = .next t ∧ t.engine = { s.engine with intpend := false } ∧ t.vsync.vscount = s.vsync.vscount
                ∧ t.vsync.handler ≠ .idle
                ∧ step t = .next (State.handled { s with env := { s.env with schedule := [] } }))
          ∧ ∀ ops, s.port.csq = .running ops → runScheduled [.handler] s
              = .next (complete (State.handled { s with env := { s.env with schedule := [] } })))
    ∧ (∀ (s : State) (ops : List MicroOp), s.vsync.handler = .running ops →
        eventStep .sequencer s = .next s ∧ s.handlerMayEnter = false
          ∧ ∀ es, s.env.schedule = .sequencer :: es → step s = .next { s with env := { s.env with schedule := es } })
    ∧ ∀ (s t : State) (e : Event), eventStep e s = .next t →
        (s.engine.intpend = false → t.engine.intpend = true → e = .frameStart ∧ bit s.engine.regs.inten 0 = true)
          ∧ (s.engine.intpend = true → t.engine.intpend = false →
              (e = .handler ∧ s.vsync.handler = .idle) ∨ e = .reset ∨ t.power.busclkOn = false
                ∨ (bit s.engine.regs.ctrl 0 = true ∧ bit t.engine.regs.ctrl 0 = false))

/-- Rule R220: one TICK, and the time-out: a wait of `n` ticks stands through `n` TICKs and times out at the next. -/
def Obligations.TickAndTimeout : Prop :=
  (∀ s : State, s.port.fault = none → eventStep .tick s = .next
      { s with
        vsync := { s.vsync with waiters := s.vsync.waiters.map fun w =>
          if w.state = .waiting then
            (if w.rem = 0 then { w with state := .timedOut, val := s.vsync.vscount } else { w with rem := w.rem - 1 })
          else w }
        power := { s.power with settle := s.power.settle - 1 } })
    ∧ ∀ (s : State) (k : Fin Config.nslot), s.vsync.waiters[k].state = .waiting →
        (∀ n, n ≤ s.vsync.waiters[k].rem.toNat → (State.ticked n s).vsync.waiters[k].state = .waiting)
          ∧ (State.ticked (s.vsync.waiters[k].rem.toNat + 1) s).vsync.waiters[k]
              = { s.vsync.waiters[k] with state := .timedOut, rem := 0, val := s.vsync.vscount }

/-- Rules R296, R297: under the fairness of rule R296 every wait ends: in an execution without end that is fair and in which
no fault is raised, a Waiting slot is one day not Waiting. -/
def Obligations.EveryWaitEnds : Prop :=
  ∀ (x : Execution) (n : Nat) (k : Fin Config.nslot), x.runs → x.Fair → (∀ m, n ≤ m → (x.state m).port.fault = none) →
    (x.state n).vsync.waiters[k].state = .waiting → ∃ m, n ≤ m ∧ (x.state m).vsync.waiters[k].state ≠ .waiting

/-! ### Power -/

/-- Rules R232 to R236, R244: SUSP in full: nothing when Suspended; else the snapshot, the idle-pin request, the settle
wait of SETTLE_TICKS TICKs, the gating with the loss of the engine domain. -/
def Obligations.SuspCommand : Prop :=
  ∀ s : State,
    (s.power.pstate = .suspended → exec .susp s = .next (s.finish .ok 0))
      ∧ (s.power.pstate ≠ .suspended → s.undisturbed → exec .susp s = .next (State.finish
          { s with
            power := { pstate := .suspended, busclkOn := false, pixclkOn := false, snapshot := some s.shadow,
                       settle := 0, retry := s.power.retry }
            vsync := (State.ticked Config.settleTicks s).vsync
            engine := Engine.lost s.env.draws
            env := { s.env with draws := s.env.draws + 1, out := .idlePinsReq :: s.env.out } } .ok 0))

/-- Rules R237 to R244: RESM in full: nothing when Active; the restore in snapshot order, the re-derivation and OUT_EN
last; failure of the poll; failure of the re-derivation; and a poll that fails `k` times, fewer than the budget, and then
succeeds: the same end with RETRY at `k`. On windows 2 and above WINCTL is restored with BUFSEL at 0, in the shadow too,
whatever the snapshot holds: that is rule R31 as log entry 21 (DEDUCED) reads it, not rule R237. -/
def Obligations.ResmCommand : Prop :=
  ∀ s : State,
    (s.power.pstate = .active → exec .resm s = .next (s.finish .ok 0))
      ∧ (s.power.pstate ≠ .active → s.undisturbed → s.env.domainReady = false →
          exec .resm s = .next (State.resumeGivenUp
            { s with power := { s.power with retry := Config.retryBudget } }))
      ∧ (∀ snap, s.power.pstate ≠ .active → s.undisturbed → s.env.domainReady = true → s.power.snapshot = some snap →
          (s.port.configured = true → s.cfg.timingCalc = none →
            exec .resm s = .next (s.powered.writeAll (restoreList snap)).resumeGivenUp)
          ∧ ∀ t, (s.port.configured = true → s.cfg.timingCalc = some t) →
              exec .resm s = .next (State.finish
                { ((s.powered.writeAll (restoreList snap)).rederived t).regWrite .ctrl
                    (((s.powered.writeAll (restoreList snap)).rederived t).shadow.ctrl
                      ||| (snap.ctrl &&& 0x00000001#32)) with
                  power := { pstate := .active, busclkOn := true, pixclkOn := true, snapshot := none,
                             settle := s.power.settle, retry := 0 } } .ok 0))
      ∧ ∀ (snap : EngineRegs) (t : TimingImage) (k : Nat), s.power.pstate ≠ .active → s.undisturbed →
          s.env.domainReady = false → s.power.snapshot = some snap → k < Config.retryBudget →
          (s.port.configured = true → s.cfg.timingCalc = some t) →
            exec .resm { s with env := { s.env with
                schedule := List.replicate (3 + k) .sequencer ++ [.domainReady true] } }
              = .next (State.finish
                  { (((s.setReady true).powered.writeAll (restoreList snap)).rederived t).regWrite .ctrl
                      ((((s.setReady true).powered.writeAll (restoreList snap)).rederived t).shadow.ctrl
                        ||| (snap.ctrl &&& 0x00000001#32)) with
                    power := { pstate := .active, busclkOn := true, pixclkOn := true, snapshot := none,
                               settle := s.power.settle, retry := k } } .ok 0)

/-- Rule R243: suspend then resume gives back every shadowed register byte for byte, in the shadow and in the hardware,
for a block whose timing registers hold what the calculator gives. -/
def Obligations.SuspendResumeRoundTrip : Prop :=
  ∀ s a : State, s.Legal → s.undisturbed → s.power.pstate = .active → s.timingHolds → s.env.domainReady = true →
    exec .susp s = .next a →
      ∃ b, exec .resm a = .next b ∧ b.port.result = .ok ∧ b.power.pstate = .active
        ∧ (∀ r ∈ shadowIds, b.shadow.get r = s.shadow.get r ∧ b.engine.regs.get r = s.shadow.get r)
        ∧ b.hwwrcnt = s.hwwrcnt + (if s.port.configured then 58 else 52)
        ∧ b.env.mem = s.env.mem ∧ b.windows = s.windows ∧ b.pend = s.pend ∧ b.vsync.vscount = s.vsync.vscount

/-- Rule R233: the snapshot's order: the 51 shadowed ids in ascending engine offset. -/
def Obligations.SnapshotOrder : Prop :=
  shadowIds.length = 51 ∧ shadowIds.Pairwise (fun r q => r.offset < q.offset)
    ∧ (∀ r : RegId, r ∈ shadowIds ↔ r.present = true)
    ∧ ∀ e : EngineRegs, (snapshotList (some e)).map Prod.fst = shadowIds
        ∧ ∀ p ∈ snapshotList (some e), p.2 = e.get p.1

/-- Rule R231: the two clock bits change together: no step of any agent parts them. -/
def Obligations.ClockBitsStayTogether : Prop :=
  ∀ s t : State, s.power.busclkOn = s.power.pixclkOn → step s = .next t → t.power.busclkOn = t.power.pixclkOn

/-! ### The fault and reset -/

/-- Rule R256: after the fault nothing but the host and the platform moves: no choice but reset changes the block (a
dropped doorbell write sets OVERRUN and is the only trace), engine accesses have no step, and with nothing scheduled the
machine stops. -/
def Obligations.FaultIsQuiescent : Prop :=
  ∀ (s : State) (r : Nat), s.port.fault = some r →
    (∀ (e : Event) (t : State), e ≠ .reset → eventStep e s = .next t →
        SameBlock s t ∧ (t.port.overrun = s.port.overrun ∨ ∃ w, e = .hostWrite .word 0 w ∧ t.port.overrun = true))
      ∧ (∀ offset v, engineOffset offset → offset % 4 = 0 → offset < 0x5000 →
          s.hostRead .word offset = .refused (.engineAccessAfterFault offset)
            ∧ s.hostWrite .word offset v = .refused (.engineAccessAfterFault offset))
      ∧ (s.env.schedule = [] → step s = .fault (.gatedAccess r))

/-- Rules R251, R252, R257: how a command that runs undisturbed ends: without a fault, with a code of its row, and, on an
error of its checks, with nothing else changed; and which commands never fault: PSET, VWAIT, SUSP, RESM, and a PFLUSH
that is deferred or has nothing to write. -/
def Obligations.ResultCodesAndFaults : Prop :=
  ∀ (s t : State) (i : Instr), s.undisturbed → exec i s = .next t →
    (t.port.fault = none → t.port.csq = .idle ∧ t.port.result ∈ mayEndWith i
        ∧ (t.port.result ≠ .ok → t.port.result ≠ .powerSequenceFailed → t = s.finish t.port.result 0))
      ∧ ((∃ win idx, i = .pset win idx) ∨ (∃ slot, i = .vwait slot) ∨ i = .susp ∨ i = .resm
          ∨ (∃ j : Win, i = .pflush j.val ∧ (s.windows[j].palDefer = true ∨ s.pend.dirty[j] = false)) →
        t.port.fault = none)

/-- Rules R280, R282: reset is one step from any state, in mid-command and after the fault; it leaves the block as after
the first reset and memory as it was. -/
def Obligations.ResetFromAnywhere : Prop :=
  ∀ (s : State) (es : List Event), s.env.schedule = .reset :: es →
    ∃ t, step s = .next t ∧ t.env.mem = s.env.mem ∧ t.env.schedule = es
      ∧ t.port = State.reset.port ∧ t.cfg = State.reset.cfg ∧ t.power = State.reset.power
      ∧ t.vsync = State.reset.vsync ∧ t.windows = State.reset.windows ∧ t.pend = State.reset.pend
      ∧ t.shadow = State.reset.shadow ∧ t.hwwrcnt = 0 ∧ t.frame = 0 ∧ t.engine.regs = State.reset.engine.regs
      ∧ t.engine.intpend = false ∧ t.engine.cur = .idle ∧ t.engine.actStart = State.reset.engine.actStart
      ∧ t.engine.actEnd = State.reset.engine.actEnd
      ∧ ∀ (i : Win) (k : Fin Config.paletteSize),
          t.engine.palram[i].words[k] = none ∧ t.engine.actpal[i].words[k] = none

/-- Rules R57, R281: what the block holds after reset. -/
def Obligations.ResetValues : Prop :=
  State.reset.power.statWord = 0x00000030 ∧ State.reset.statusWord = 0 ∧ State.reset.port.cmd = 0
    ∧ State.reset.port.retval = 0 ∧ (∀ k : Fin 6, State.reset.port.args[k] = 0)
    ∧ State.reset.cfg = { srcclk := 0, res := 0, vres := 0, htim := 0, vtim := 0, refresh := 0, misc := 0, phys := 0,
                          fbBase := Vector.replicate 5 0, fbCap := Vector.replicate 5 0 }
    ∧ State.reset.port.csq = .idle ∧ State.reset.power.snapshot = none ∧ State.reset.power.settle = 0 ∧ State.reset.power.retry = 0
    ∧ State.reset.vsync.maskdepth = 0 ∧ State.reset.vsync.handler = .idle ∧ State.reset.vsync.vscount = 0
    ∧ (∀ k : Fin 4, State.reset.vsync.waiters[k] = { state := .idle, snap := 0, rem := 0, val := 0 })
    ∧ (∀ r : RegId, State.reset.shadow.get r = 0 ∧ State.reset.engine.regs.get r = 0)
    ∧ State.reset.engine.intpend = false ∧ State.reset.engine.cur = .idle
    ∧ (∀ i : Win, State.reset.engine.actStart[i] = 0 ∧ State.reset.engine.actEnd[i] = 0)
    ∧ (∀ i : Win, State.reset.windows[i] =
          { format := none, x := 0, y := 0, width := 0, height := 0, vwidth := 0, vheight := 0, lineStride := 0,
            panOffset := 0, yOffset := 0, buffer := none, enabled := false, blend := none, palDefer := false }
        ∧ State.reset.pend.table[i] = none ∧ State.reset.pend.dirty[i] = false ∧ State.reset.pend.request[i] = false)
    ∧ State.reset.hwwrcnt = 0 ∧ State.reset.frame = 0

/-! ### Scan-out -/

/-- Rules R195, R196: a frame that nothing cuts short, while OUT_EN and both clock bits are 1, emits exactly W × H pixels in raster order, each with the colour that the
compositor gives on the state at its turn, and then ends. Rule R209: scan-out writes no memory and no register and raises
no fault. -/
def Obligations.FullFrame : Prop :=
  (∀ (s : State) (w h : Nat), s.engine.cur = .at 0 0 → bit s.engine.regs.ctrl 0 = true → s.power.pixclkOn = true →
    s.power.busclkOn = true → s.port.fault = none →
    w = s.engine.regs.timsize.toNat % 4096 + 1 → h = s.engine.regs.timsize.toNat / 65536 % 4096 + 1 →
      (scanTurn^[w * h] s).engine.cur = .idle
        ∧ (scanTurn^[w * h] s).env.out.length = s.env.out.length + w * h
        ∧ ∀ k, k < w * h → (scanTurn^[k] s).engine.cur = .at (k % w) (k / w)
            ∧ (scanTurn^[k + 1] s).env.out.head?
                = some (.pixel s.frame (k % w) (k / w) ((scanTurn^[k] s).compose (k % w) (k / w))))
    ∧ ∀ s : State, ∃ t, eventStep .scanOut s = .next t
        ∧ t = { s with
            engine := { s.engine with cur := t.engine.cur }
            env := { s.env with out := t.env.out, draws := t.env.draws } }

/-- Rules R197, R201 to R204, R206, R207: the compositor window by window, over the background: a window that does not cover
leaves the colour; window 0 replaces it; a window above is transparent where its key matches, else opaque without alpha
and blended with it. So where nothing covers the background shows, and the topmost covering window without key and
alpha, or window 0 with nothing above it, shows its own colour. -/
def Obligations.ComposedPixel : Prop :=
  ∀ (s : State) (px py : Nat),
    (s.compose px py = s.composedBelow px py 5 ∧ s.composedBelow px py 0 = { r := 0, g := 0, b := 0 })
      ∧ (∀ i : Win, s.engine.regs.win[i].covers px py = true ↔ bit s.engine.regs.win[i].ctl 0 = true
          ∧ bits s.engine.regs.win[i].posA 27 16 ≤ px ∧ px ≤ bits s.engine.regs.win[i].posB 27 16
          ∧ bits s.engine.regs.win[i].posA 11 0 ≤ py ∧ py ≤ bits s.engine.regs.win[i].posB 11 0)
      ∧ (∀ i : Win, s.engine.regs.win[i].covers px py = false ∨ modeFormat s.engine.regs.win[i].ctl = none →
          s.composedBelow px py (i.val + 1) = s.composedBelow px py i.val)
      ∧ (∀ (i : Win) (f : Format) (v : Nat) (src : Rgb), s.engine.regs.win[i].covers px py = true →
          modeFormat s.engine.regs.win[i].ctl = some f → v = s.pixelAt i f px py → src = s.engine.decodePixel i f v →
            (i.val = 0 → s.composedBelow px py 1 = src)
            ∧ (1 ≤ i.val → bit s.engine.regs.win[i].blend 0 = true → keyHits s.engine.regs.win[i].key f v src →
                s.composedBelow px py (i.val + 1) = s.composedBelow px py i.val)
            ∧ (1 ≤ i.val → bit s.engine.regs.win[i].blend 0 = false ∨ ¬ keyHits s.engine.regs.win[i].key f v src →
                (bit s.engine.regs.win[i].blend 1 = false → s.composedBelow px py (i.val + 1) = src)
                ∧ ∀ (a : Nat) (acc : Rgb), bit s.engine.regs.win[i].blend 1 = true →
                    a = bits s.engine.regs.win[i].blend 15 8 → acc = s.composedBelow px py i.val →
                      s.composedBelow px py (i.val + 1)
                        = { r := BitVec.ofNat 8 ((src.r.toNat * a + acc.r.toNat * (255 - a)) / 255)
                            g := BitVec.ofNat 8 ((src.g.toNat * a + acc.g.toNat * (255 - a)) / 255)
                            b := BitVec.ofNat 8 ((src.b.toNat * a + acc.b.toNat * (255 - a)) / 255) }))
      ∧
    ((∀ j : Win, s.engine.regs.win[j].covers px py = false) → s.compose px py = { r := 0, g := 0, b := 0 })
      ∧ ∀ (i : Win) (f : Format), modeFormat s.engine.regs.win[i].ctl = some f →
          s.engine.regs.win[i].covers px py = true →
          (∀ j : Win, i < j → s.engine.regs.win[j].covers px py = false) →
          (i.val = 0 ∨ bit s.engine.regs.win[i].blend 0 = false ∧ bit s.engine.regs.win[i].blend 1 = false) →
            s.compose px py = s.engine.decodePixel i f (s.pixelAt i f px py)

/-- Rule R206: the blend is exact at both ends and its formula never leaves a byte. -/
def Obligations.BlendArithmetic : Prop :=
  ∀ src dst a : Byte,
    (blendComponent src dst a).toNat = (src.toNat * a.toNat + dst.toNat * (255 - a.toNat)) / 255
      ∧ blendComponent src dst 255 = src ∧ blendComponent src dst 0 = dst

/-- Rule R199: both direct-colour decodes, the 5-6-5 components expanded by bit replication. Rule R200: the Indexed8
lookup in the active palette and nowhere else. -/
def Obligations.PixelDecode : Prop :=
  ∀ (e : Engine) (i : Win) (v : Nat),
    (v < 65536 → e.decodePixel i .rgb565 v
        = { r := BitVec.ofNat 8 (v / 2048 * 8 + v / 2048 / 4), g := BitVec.ofNat 8 (v / 32 % 64 * 4 + v / 32 % 64 / 16),
            b := BitVec.ofNat 8 (v % 32 * 8 + v % 32 / 4) })
      ∧ e.decodePixel i .rgb888 v
        = { r := BitVec.ofNat 8 (v / 65536), g := BitVec.ofNat 8 (v / 256), b := BitVec.ofNat 8 v }
      ∧ (∀ (k : Fin Config.paletteSize) (c : Word), v = k.val →
          c = (e.actpal[i].words[k]).getD (Config.freePaletteWord e.actpal[i].gen i.val k.val) →
            e.decodePixel i .indexed8 v = { r := BitVec.ofNat 8 (c.toNat / 65536), g := BitVec.ofNat 8 (c.toNat / 256),
                                            b := BitVec.ofNat 8 c.toNat })
      ∧ ∀ f (p : PerWindow PaletteMem), Engine.decodePixel { e with palram := p } i f v = e.decodePixel i f v

/-- Rules R85, R198: the fetch of a pixel of a window latched whole ends at or before ACT_END, so it is what memory
holds; a buffer that ends with the address space, whose end 2^32 the 32-bit latch holds as 0 (DEDUCED, log entry 11), is
no exception. Rule R83: on a carve-out that the platform has aligned (rule R82) the fetch is naturally aligned. -/
def Obligations.FetchStaysInBuffer : Prop :=
  ∀ (s : State) (i : Win) (f : Format) (d : Window) (lx ly : Nat),
    bits s.engine.regs.win[i].size 15 0 = d.lineStride → d.width * f.bpp ≤ d.lineStride →
    lx < d.width → ly < d.height → d.height * d.lineStride < Config.memorySize →
    s.engine.actStart[i].toNat + d.height * d.lineStride ≤ Config.memorySize →
      (s.engine.actEnd[i] = addressWord (s.engine.actStart[i].toNat + d.height * d.lineStride) →
        s.fetchPixel i f lx ly
          = s.env.mem.readLE (s.engine.actStart[i].toNat + ly * d.lineStride + lx * f.bpp) f.bpp)
      ∧ ∀ (configured : Win → Prop) (y : Nat), platformObligations s.cfg configured → configured i →
          d.lineStride = d.vwidth * f.bpp → s.engine.actStart[i].toNat = s.cfg.fbBase[i].toNat + y * d.lineStride →
            s.engine.pixelAddress i f lx ly = s.engine.actStart[i].toNat + ly * d.lineStride + lx * f.bpp
              ∧ s.engine.pixelAddress i f lx ly % f.bpp = 0

/-! ### Memory -/

/-- Rules R71, R72: what was written is read back, little-endian, and no other byte has changed. Rules R70, R87: a host
read of a byte is one step that gives the byte and has no other effect; a host write of a naturally aligned unit is one
step; the byte steps of a wider or misaligned one, in whatever order, leave its bytes in memory and no other byte changed. -/
def Obligations.MemoryReadWrite : Prop :=
  (∀ (m : Memory) (addr n v : Nat), addr + n ≤ Config.memorySize →
    (m.writeLE addr n v).readLE addr n = v % 256 ^ n
      ∧ ∀ a, a < Config.memorySize → (a < addr ∨ addr + n ≤ a) → (m.writeLE addr n v).read a = m.read a)
    ∧ (∀ (s : State) (addr : Word), eventStep (.memRead addr) s
        = .next { s with env := { s.env with out := .memData addr (s.env.mem.read addr.toNat) :: s.env.out } })
    ∧ (∀ (s : State) (unit : MemUnit) (v : Word),
        unit.address % unit.bytes = 0 ∧ unit.address + unit.bytes ≤ Config.memorySize
          ∧ eventStep (.memWrite unit v) s
              = .next { s with env := { s.env with mem := s.env.mem.writeLE unit.address unit.bytes v.toNat } })
    ∧ ∀ (s : State) (addr : Word) (bytes : List Byte) (es : List Event), es.Perm (byteWrites addr bytes) →
        addr.toNat + bytes.length ≤ Config.memorySize →
          ∃ t, performAll es s = .next t
            ∧ (∀ (k : Nat) (h : k < bytes.length), t.env.mem.read (addr.toNat + k) = bytes[k])
            ∧ ∀ a, a < Config.memorySize → (a < addr.toNat ∨ addr.toNat + bytes.length ≤ a) →
                t.env.mem.read a = s.env.mem.read a

/-- The canonical form of memory (the model's representation of rule R70's `MEM`) is kept by every step of every agent,
host writes and zero-fills among them. -/
def Obligations.MemoryStaysCanonical : Prop :=
  ∀ s t : State, s.env.mem.wf = true → step s = .next t → t.env.mem.wf = true

/-- Each agent holds only its own kind of micro-step, and every step keeps it so. This is an invariant of the model's form:
the lists of micro-steps by which the model holds CSQ and IH (DESIGN CHOICE, log entry 6); rules R262 and R265 say what
the handler does. -/
def Obligations.AgentsStayApart : Prop :=
  ∀ s t : State, s.agentsApart → step s = .next t → t.agentsApart

/-- The invariants of these statements at reset. -/
def Obligations.InvariantsAtReset : Prop :=
  State.reset.env.mem.wf = true ∧ State.reset.Steady ∧ State.reset.agentsApart ∧ State.reset.Legal ∧ State.reset.timingHolds
    ∧ State.reset.power.busclkOn = State.reset.power.pixclkOn

/-! ### Whole commands -/

/-- Rule R56: the facts that hold between commands are kept by every command that runs undisturbed and does not fault. -/
def Obligations.CommandsKeepLegal : Prop :=
  ∀ (s t : State) (i : Instr), s.Legal → s.undisturbed → exec i s = .next t → t.port.fault = none → t.Legal

/-- Rules R31, R40, R41, R56, R230, R231, R272, under every interleaving: whatever is scheduled, inside commands and between
them, every step leaves the mask depth at that of the handler's micro-steps, VSYNC_PEND at 0 while output is off (rule R222;
log entry 29, DEDUCED), SHADOW = REG outside a `RegWrite` of the
handler while Active, and the power state paired with its clock bits. The form `State.Steady` rests on the lists of
micro-steps by which the model holds CSQ and IH (DESIGN CHOICE, log entry 6). -/
def Obligations.EveryStepKeepsSteady : Prop :=
  ∀ s t : State, s.Steady → step s = .next t → t.Steady

/-- Rule R297: every command that runs reaches its end or the fault, whatever the other agents do in between. -/
def Obligations.EveryCommandEnds : Prop :=
  ∀ (s t : State) (i : Instr), s.vsync.handler = .idle → exec i s = .next t →
    t.port.csq = .idle ∨ t.port.fault ≠ none

/-- Rules R22, R24, R28, R30, R35, R54, R70, R231: the frame of the commands: run undisturbed, no command touches CMD, the ARG
registers, their latch, OVERRUN, the CFG bank, VSCOUNT, FRAME, INTPEND of an engine domain that keeps its clocks and its
output on (a fall of OUT_EN clears it: log entry 29, DEDUCED), or, but for WCFG, a byte of memory; and only SUSP and RESM
touch the power state. -/
def Obligations.CommandFrame : Prop :=
  ∀ (s t : State) (i : Instr), s.undisturbed → exec i s = .next t →
    t.port.cmd = s.port.cmd ∧ t.port.args = s.port.args ∧ t.port.latch = s.port.latch
      ∧ t.port.overrun = s.port.overrun ∧ t.cfg = s.cfg ∧ t.vsync.vscount = s.vsync.vscount ∧ t.frame = s.frame
      ∧ (i ≠ .susp → i ≠ .resm → t.power = s.power ∧ t.env.out = s.env.out
          ∧ t.engine.intpend
              = if bit s.engine.regs.ctrl 0 = true ∧ bit t.engine.regs.ctrl 0 = false then false else s.engine.intpend)
      ∧ ((∀ win fmt se db bl pd, i ≠ .wcfg win fmt se db bl pd) → ∀ a, t.env.mem.read a = s.env.mem.read a)
end

