-- ==== Sys2Proof/Laws/Regs.lean ====
section
/-! SUPPORT. Reading and writing one engine register, the OUT_EN edge, and the palette write. -/

namespace Sys2Proof.Machine

@[simp] theorem WinRegs.get_put (w : WinRegs) (f g : WinReg) (v : Word) :
    (w.put f v).get g = if g = f then v else w.get g := by
  cases f <;> cases g <;> rfl

theorem EngineRegs.get_put (e : EngineRegs) (r q : RegId) (v : Word) :
    (e.put r v).get q = if q = r then v else e.get q := by
  cases r <;> cases q <;> simp [EngineRegs.put, EngineRegs.get]
  rename_i i f j g
  by_cases h : j = i
  · subst h; simp
  · have hv : ¬ (i.val = j.val) := fun h' => h (Fin.ext h'.symm)
    simp [h, Vector.getElem_set_ne, hv]

@[simp] theorem EngineRegs.get_put_self (e : EngineRegs) (r : RegId) (v : Word) : (e.put r v).get r = v := by
  simp [EngineRegs.get_put]

theorem EngineRegs.get_put_ne (e : EngineRegs) {r q : RegId} (h : q ≠ r) (v : Word) :
    (e.put r v).get q = e.get q := by
  simp [EngineRegs.get_put, h]

theorem EngineRegs.put_put (e : EngineRegs) (r : RegId) (v w : Word) : (e.put r v).put r w = e.put r w := by
  cases r <;> simp [EngineRegs.put]
  rename_i i f
  cases f <;> simp [WinRegs.put]

/-- A write of another register than CTRL does not move OUT_EN. -/
theorem EngineRegs.outEn_put_ne (e : EngineRegs) {r : RegId} (h : r ≠ .ctrl) (v : Word) :
    (e.put r v).outEn = e.outEn := by
  cases r <;> simp_all [EngineRegs.put, EngineRegs.outEn]

@[simp] theorem EngineRegs.outEn_put_ctrl (e : EngineRegs) (v : Word) : (e.put .ctrl v).outEn = bit v 0 := rfl

@[simp] theorem Engine.outputEdge_regs (e : Engine) (b : Bool) : (e.outputEdge b).regs = e.regs := by
  unfold Engine.outputEdge Engine.frameStartLoad; split <;> split <;> rfl

/-- INTPEND stays unless OUT_EN falls (log entry 29). -/
@[simp] theorem Engine.outputEdge_intpend (e : Engine) (b : Bool) :
    (e.outputEdge b).intpend = (e.intpend && (e.regs.outEn || !b)) := by
  unfold Engine.outputEdge Engine.frameStartLoad; split <;> split <;> simp_all

@[simp] theorem Engine.outputEdge_palram (e : Engine) (b : Bool) : (e.outputEdge b).palram = e.palram := by
  unfold Engine.outputEdge Engine.frameStartLoad; split <;> split <;> rfl

@[simp] theorem Engine.outputEdge_same (e : Engine) : e.outputEdge e.regs.outEn = e := by
  unfold Engine.outputEdge; split <;> simp_all

@[simp] theorem Engine.writeReg_regs (e : Engine) (r : RegId) (v : Word) : (e.writeReg r v).regs = e.regs.put r v := by
  simp [Engine.writeReg]

@[simp] theorem Engine.writeReg_intpend (e : Engine) (r : RegId) (v : Word) :
    (e.writeReg r v).intpend = (e.intpend && ((e.regs.put r v).outEn || !e.regs.outEn)) := by
  simp [Engine.writeReg]

@[simp] theorem Engine.writeReg_palram (e : Engine) (r : RegId) (v : Word) : (e.writeReg r v).palram = e.palram := by
  simp [Engine.writeReg]

/-- A write that leaves OUT_EN as it was changes the register and nothing else. -/
theorem Engine.writeReg_of_outEn (e : Engine) (r : RegId) (v : Word) (h : (e.regs.put r v).outEn = e.regs.outEn) :
    e.writeReg r v = { e with regs := e.regs.put r v } := by
  unfold Engine.writeReg
  rw [← h]
  exact Engine.outputEdge_same { e with regs := e.regs.put r v }

/-- A write of another register than CTRL changes the register and nothing else. -/
theorem Engine.writeReg_ne_ctrl (e : Engine) {r : RegId} (h : r ≠ .ctrl) (v : Word) :
    e.writeReg r v = { e with regs := e.regs.put r v } :=
  e.writeReg_of_outEn r v (e.regs.outEn_put_ne h v)

/-- Only WINCTL of windows 2 and above has a hardwired bit. -/
@[simp] theorem RegId.wired_ctrl (v : Word) : RegId.wired .ctrl v = v := rfl
@[simp] theorem RegId.wired_timv (v : Word) : RegId.wired .timv v = v := rfl
@[simp] theorem RegId.wired_timh (v : Word) : RegId.wired .timh v = v := rfl
@[simp] theorem RegId.wired_timsize (v : Word) : RegId.wired .timsize v = v := rfl
@[simp] theorem RegId.wired_timpol (v : Word) : RegId.wired .timpol v = v := rfl
@[simp] theorem RegId.wired_dither (v : Word) : RegId.wired .dither v = v := rfl
@[simp] theorem RegId.wired_inten (v : Word) : RegId.wired .inten v = v := rfl
@[simp] theorem RegId.wired_palctl (v : Word) : RegId.wired .palctl v = v := rfl
@[simp] theorem RegId.wired_alatch (v : Word) : RegId.wired .alatch v = v := rfl
@[simp] theorem RegId.wired_win_low {i : Win} (h : i.val ≤ 1) (f : WinReg) (v : Word) :
    RegId.wired (.win i f) v = v := by
  cases f <;> simp [RegId.wired]; omega
theorem RegId.wired_win_ne_ctl (i : Win) {f : WinReg} (h : f ≠ .ctl) (v : Word) : RegId.wired (.win i f) v = v := by
  cases f <;> simp_all [RegId.wired]

theorem State.palWrite_of_on (s : State) (i : Win) (k : Fin Config.paletteSize) (v : Word)
    (h : s.engine.regs.palupd i = true) :
    s.palWrite i k v = { s with engine := s.engine.writePalette i k v, hwwrcnt := s.hwwrcnt + 1 } := by
  simp [State.palWrite, h]

theorem State.palWrite_of_off (s : State) (i : Win) (k : Fin Config.paletteSize) (v : Word)
    (h : s.engine.regs.palupd i = false) : s.palWrite i k v = s := by
  simp [State.palWrite, h]

/-- What `RegWrite` does to the engine's and the shadow's registers: both hold the value. -/
theorem State.regWrite_get (s : State) (r q : RegId) (v : Word) :
    (s.regWrite r v).shadow.get q = (if q = r then v else s.shadow.get q)
      ∧ (s.regWrite r v).engine.regs.get q = (if q = r then v else s.engine.regs.get q) := by
  constructor
  · exact s.shadow.get_put r q v
  · rw [show (s.regWrite r v).engine = s.engine.writeReg r v from rfl, Engine.writeReg_regs]
    exact s.engine.regs.get_put r q v

end Sys2Proof.Machine
end

