-- ==== Sys2Proof/Laws/State.lean ====
section
/-! SUPPORT. One lemma per field for each named update of the state: what the update leaves in the field. -/

namespace Sys2Proof.Machine

variable (s : State)

/-! ### `State.finish` -/

@[simp] theorem State.finish_port_cmd (r : Result) (v : Word) : (s.finish r v).port.cmd = s.port.cmd := rfl
@[simp] theorem State.finish_port_args (r : Result) (v : Word) : (s.finish r v).port.args = s.port.args := rfl
@[simp] theorem State.finish_port_latch (r : Result) (v : Word) : (s.finish r v).port.latch = s.port.latch := rfl
@[simp] theorem State.finish_port_retval (r : Result) (v : Word) : (s.finish r v).port.retval = v := rfl
@[simp] theorem State.finish_port_result (r : Result) (v : Word) : (s.finish r v).port.result = r := rfl
@[simp] theorem State.finish_port_overrun (r : Result) (v : Word) : (s.finish r v).port.overrun = s.port.overrun := rfl
@[simp] theorem State.finish_port_configured (r : Result) (v : Word) : (s.finish r v).port.configured = s.port.configured := rfl
@[simp] theorem State.finish_port_fault (r : Result) (v : Word) : (s.finish r v).port.fault = s.port.fault := rfl
@[simp] theorem State.finish_port_csq (r : Result) (v : Word) : (s.finish r v).port.csq = .idle := rfl
@[simp] theorem State.finish_cfg (r : Result) (v : Word) : (s.finish r v).cfg = s.cfg := rfl
@[simp] theorem State.finish_power (r : Result) (v : Word) : (s.finish r v).power = s.power := rfl
@[simp] theorem State.finish_vsync (r : Result) (v : Word) : (s.finish r v).vsync = s.vsync := rfl
@[simp] theorem State.finish_windows (r : Result) (v : Word) : (s.finish r v).windows = s.windows := rfl
@[simp] theorem State.finish_pend (r : Result) (v : Word) : (s.finish r v).pend = s.pend := rfl
@[simp] theorem State.finish_shadow (r : Result) (v : Word) : (s.finish r v).shadow = s.shadow := rfl
@[simp] theorem State.finish_hwwrcnt (r : Result) (v : Word) : (s.finish r v).hwwrcnt = s.hwwrcnt := rfl
@[simp] theorem State.finish_frame (r : Result) (v : Word) : (s.finish r v).frame = s.frame := rfl
@[simp] theorem State.finish_engine (r : Result) (v : Word) : (s.finish r v).engine = s.engine := rfl
@[simp] theorem State.finish_env (r : Result) (v : Word) : (s.finish r v).env = s.env := rfl

/-! ### `State.raise` -/

@[simp] theorem State.raise_port_cmd (o : Nat) : (s.raise o).port.cmd = s.port.cmd := rfl
@[simp] theorem State.raise_port_args (o : Nat) : (s.raise o).port.args = s.port.args := rfl
@[simp] theorem State.raise_port_latch (o : Nat) : (s.raise o).port.latch = s.port.latch := rfl
@[simp] theorem State.raise_port_retval (o : Nat) : (s.raise o).port.retval = s.port.retval := rfl
@[simp] theorem State.raise_port_result (o : Nat) : (s.raise o).port.result = s.port.result := rfl
@[simp] theorem State.raise_port_overrun (o : Nat) : (s.raise o).port.overrun = s.port.overrun := rfl
@[simp] theorem State.raise_port_configured (o : Nat) : (s.raise o).port.configured = s.port.configured := rfl
@[simp] theorem State.raise_port_fault (o : Nat) : (s.raise o).port.fault = some o := rfl
@[simp] theorem State.raise_port_csq (o : Nat) : (s.raise o).port.csq = s.port.csq := rfl
@[simp] theorem State.raise_cfg (o : Nat) : (s.raise o).cfg = s.cfg := rfl
@[simp] theorem State.raise_power (o : Nat) : (s.raise o).power = s.power := rfl
@[simp] theorem State.raise_vsync (o : Nat) : (s.raise o).vsync = s.vsync := rfl
@[simp] theorem State.raise_windows (o : Nat) : (s.raise o).windows = s.windows := rfl
@[simp] theorem State.raise_pend (o : Nat) : (s.raise o).pend = s.pend := rfl
@[simp] theorem State.raise_shadow (o : Nat) : (s.raise o).shadow = s.shadow := rfl
@[simp] theorem State.raise_hwwrcnt (o : Nat) : (s.raise o).hwwrcnt = s.hwwrcnt := rfl
@[simp] theorem State.raise_frame (o : Nat) : (s.raise o).frame = s.frame := rfl
@[simp] theorem State.raise_engine (o : Nat) : (s.raise o).engine = s.engine := rfl
@[simp] theorem State.raise_env (o : Nat) : (s.raise o).env = s.env := rfl

/-! ### `State.mask` -/

@[simp] theorem State.mask_port : (s.mask).port = s.port := rfl
@[simp] theorem State.mask_cfg : (s.mask).cfg = s.cfg := rfl
@[simp] theorem State.mask_power : (s.mask).power = s.power := rfl
@[simp] theorem State.mask_vsync_maskdepth : (s.mask).vsync.maskdepth = s.vsync.maskdepth + 1 := rfl
@[simp] theorem State.mask_vsync_handler : (s.mask).vsync.handler = s.vsync.handler := rfl
@[simp] theorem State.mask_vsync_vscount : (s.mask).vsync.vscount = s.vsync.vscount := rfl
@[simp] theorem State.mask_vsync_waiters : (s.mask).vsync.waiters = s.vsync.waiters := rfl
@[simp] theorem State.mask_windows : (s.mask).windows = s.windows := rfl
@[simp] theorem State.mask_pend : (s.mask).pend = s.pend := rfl
@[simp] theorem State.mask_shadow : (s.mask).shadow = s.shadow := rfl
@[simp] theorem State.mask_hwwrcnt : (s.mask).hwwrcnt = s.hwwrcnt := rfl
@[simp] theorem State.mask_frame : (s.mask).frame = s.frame := rfl
@[simp] theorem State.mask_engine : (s.mask).engine = s.engine := rfl
@[simp] theorem State.mask_env : (s.mask).env = s.env := rfl

/-! ### `State.unmask` -/

@[simp] theorem State.unmask_port : (s.unmask).port = s.port := rfl
@[simp] theorem State.unmask_cfg : (s.unmask).cfg = s.cfg := rfl
@[simp] theorem State.unmask_power : (s.unmask).power = s.power := rfl
@[simp] theorem State.unmask_vsync_maskdepth : (s.unmask).vsync.maskdepth = s.vsync.maskdepth - 1 := rfl
@[simp] theorem State.unmask_vsync_handler : (s.unmask).vsync.handler = s.vsync.handler := rfl
@[simp] theorem State.unmask_vsync_vscount : (s.unmask).vsync.vscount = s.vsync.vscount := rfl
@[simp] theorem State.unmask_vsync_waiters : (s.unmask).vsync.waiters = s.vsync.waiters := rfl
@[simp] theorem State.unmask_windows : (s.unmask).windows = s.windows := rfl
@[simp] theorem State.unmask_pend : (s.unmask).pend = s.pend := rfl
@[simp] theorem State.unmask_shadow : (s.unmask).shadow = s.shadow := rfl
@[simp] theorem State.unmask_hwwrcnt : (s.unmask).hwwrcnt = s.hwwrcnt := rfl
@[simp] theorem State.unmask_frame : (s.unmask).frame = s.frame := rfl
@[simp] theorem State.unmask_engine : (s.unmask).engine = s.engine := rfl
@[simp] theorem State.unmask_env : (s.unmask).env = s.env := rfl

/-! ### `State.writeShadow` -/

@[simp] theorem State.writeShadow_port (r : RegId) (v : Word) : (s.writeShadow r v).port = s.port := rfl
@[simp] theorem State.writeShadow_cfg (r : RegId) (v : Word) : (s.writeShadow r v).cfg = s.cfg := rfl
@[simp] theorem State.writeShadow_power (r : RegId) (v : Word) : (s.writeShadow r v).power = s.power := rfl
@[simp] theorem State.writeShadow_vsync_maskdepth (r : RegId) (v : Word) : (s.writeShadow r v).vsync.maskdepth = s.vsync.maskdepth + 1 := rfl
@[simp] theorem State.writeShadow_vsync_handler (r : RegId) (v : Word) : (s.writeShadow r v).vsync.handler = s.vsync.handler := rfl
@[simp] theorem State.writeShadow_vsync_vscount (r : RegId) (v : Word) : (s.writeShadow r v).vsync.vscount = s.vsync.vscount := rfl
@[simp] theorem State.writeShadow_vsync_waiters (r : RegId) (v : Word) : (s.writeShadow r v).vsync.waiters = s.vsync.waiters := rfl
@[simp] theorem State.writeShadow_windows (r : RegId) (v : Word) : (s.writeShadow r v).windows = s.windows := rfl
@[simp] theorem State.writeShadow_pend (r : RegId) (v : Word) : (s.writeShadow r v).pend = s.pend := rfl
@[simp] theorem State.writeShadow_shadow (r : RegId) (v : Word) : (s.writeShadow r v).shadow = s.shadow.put r v := rfl
@[simp] theorem State.writeShadow_hwwrcnt (r : RegId) (v : Word) : (s.writeShadow r v).hwwrcnt = s.hwwrcnt := rfl
@[simp] theorem State.writeShadow_frame (r : RegId) (v : Word) : (s.writeShadow r v).frame = s.frame := rfl
@[simp] theorem State.writeShadow_engine (r : RegId) (v : Word) : (s.writeShadow r v).engine = s.engine := rfl
@[simp] theorem State.writeShadow_env (r : RegId) (v : Word) : (s.writeShadow r v).env = s.env := rfl

/-! ### `State.writeHardware` -/

@[simp] theorem State.writeHardware_port (r : RegId) (v : Word) : (s.writeHardware r v).port = s.port := rfl
@[simp] theorem State.writeHardware_cfg (r : RegId) (v : Word) : (s.writeHardware r v).cfg = s.cfg := rfl
@[simp] theorem State.writeHardware_power (r : RegId) (v : Word) : (s.writeHardware r v).power = s.power := rfl
@[simp] theorem State.writeHardware_vsync (r : RegId) (v : Word) : (s.writeHardware r v).vsync = s.vsync := rfl
@[simp] theorem State.writeHardware_windows (r : RegId) (v : Word) : (s.writeHardware r v).windows = s.windows := rfl
@[simp] theorem State.writeHardware_pend (r : RegId) (v : Word) : (s.writeHardware r v).pend = s.pend := rfl
@[simp] theorem State.writeHardware_shadow (r : RegId) (v : Word) : (s.writeHardware r v).shadow = s.shadow := rfl
@[simp] theorem State.writeHardware_hwwrcnt (r : RegId) (v : Word) : (s.writeHardware r v).hwwrcnt = s.hwwrcnt + 1 := rfl
@[simp] theorem State.writeHardware_frame (r : RegId) (v : Word) : (s.writeHardware r v).frame = s.frame := rfl
@[simp] theorem State.writeHardware_engine (r : RegId) (v : Word) : (s.writeHardware r v).engine = s.engine.writeReg r v := rfl
@[simp] theorem State.writeHardware_env (r : RegId) (v : Word) : (s.writeHardware r v).env = s.env := rfl

/-! ### `State.regWrite` -/

@[simp] theorem State.regWrite_port (r : RegId) (v : Word) : (s.regWrite r v).port = s.port := rfl
@[simp] theorem State.regWrite_cfg (r : RegId) (v : Word) : (s.regWrite r v).cfg = s.cfg := rfl
@[simp] theorem State.regWrite_power (r : RegId) (v : Word) : (s.regWrite r v).power = s.power := rfl
@[simp] theorem State.regWrite_vsync (r : RegId) (v : Word) : (s.regWrite r v).vsync = s.vsync := rfl
@[simp] theorem State.regWrite_windows (r : RegId) (v : Word) : (s.regWrite r v).windows = s.windows := rfl
@[simp] theorem State.regWrite_pend (r : RegId) (v : Word) : (s.regWrite r v).pend = s.pend := rfl
@[simp] theorem State.regWrite_shadow (r : RegId) (v : Word) : (s.regWrite r v).shadow = s.shadow.put r v := rfl
@[simp] theorem State.regWrite_hwwrcnt (r : RegId) (v : Word) : (s.regWrite r v).hwwrcnt = s.hwwrcnt + 1 := rfl
@[simp] theorem State.regWrite_frame (r : RegId) (v : Word) : (s.regWrite r v).frame = s.frame := rfl
@[simp] theorem State.regWrite_engine (r : RegId) (v : Word) : (s.regWrite r v).engine = s.engine.writeReg r v := rfl
@[simp] theorem State.regWrite_env (r : RegId) (v : Word) : (s.regWrite r v).env = s.env := rfl

/-! ### `State.gateClocks` -/

@[simp] theorem State.gateClocks_port : (s.gateClocks).port = s.port := rfl
@[simp] theorem State.gateClocks_cfg : (s.gateClocks).cfg = s.cfg := rfl
@[simp] theorem State.gateClocks_power_pstate : (s.gateClocks).power.pstate = s.power.pstate := rfl
@[simp] theorem State.gateClocks_power_busclkOn : (s.gateClocks).power.busclkOn = false := rfl
@[simp] theorem State.gateClocks_power_pixclkOn : (s.gateClocks).power.pixclkOn = false := rfl
@[simp] theorem State.gateClocks_power_snapshot : (s.gateClocks).power.snapshot = s.power.snapshot := rfl
@[simp] theorem State.gateClocks_power_settle : (s.gateClocks).power.settle = s.power.settle := rfl
@[simp] theorem State.gateClocks_power_retry : (s.gateClocks).power.retry = s.power.retry := rfl
@[simp] theorem State.gateClocks_vsync : (s.gateClocks).vsync = s.vsync := rfl
@[simp] theorem State.gateClocks_windows : (s.gateClocks).windows = s.windows := rfl
@[simp] theorem State.gateClocks_pend : (s.gateClocks).pend = s.pend := rfl
@[simp] theorem State.gateClocks_shadow : (s.gateClocks).shadow = s.shadow := rfl
@[simp] theorem State.gateClocks_hwwrcnt : (s.gateClocks).hwwrcnt = s.hwwrcnt := rfl
@[simp] theorem State.gateClocks_frame : (s.gateClocks).frame = s.frame := rfl
@[simp] theorem State.gateClocks_engine : (s.gateClocks).engine = Engine.lost s.env.draws := rfl
@[simp] theorem State.gateClocks_env_mem : (s.gateClocks).env.mem = s.env.mem := rfl
@[simp] theorem State.gateClocks_env_domainReady : (s.gateClocks).env.domainReady = s.env.domainReady := rfl
@[simp] theorem State.gateClocks_env_schedule : (s.gateClocks).env.schedule = s.env.schedule := rfl
@[simp] theorem State.gateClocks_env_out : (s.gateClocks).env.out = s.env.out := rfl
@[simp] theorem State.gateClocks_env_draws : (s.gateClocks).env.draws = s.env.draws + 1 := rfl
@[simp] theorem State.gateClocks_env_turn : (s.gateClocks).env.turn = s.env.turn := rfl

/-! ### `State.handlerEnter` -/

@[simp] theorem State.handlerEnter_port : (s.handlerEnter).port = s.port := rfl
@[simp] theorem State.handlerEnter_cfg : (s.handlerEnter).cfg = s.cfg := rfl
@[simp] theorem State.handlerEnter_power : (s.handlerEnter).power = s.power := rfl
@[simp] theorem State.handlerEnter_vsync_maskdepth : (s.handlerEnter).vsync.maskdepth = s.vsync.maskdepth := rfl
@[simp] theorem State.handlerEnter_vsync_vscount : (s.handlerEnter).vsync.vscount = s.vsync.vscount := rfl
@[simp] theorem State.handlerEnter_vsync_waiters : (s.handlerEnter).vsync.waiters = s.vsync.waiters := rfl
@[simp] theorem State.handlerEnter_windows : (s.handlerEnter).windows = s.windows := rfl
@[simp] theorem State.handlerEnter_pend : (s.handlerEnter).pend = s.pend := rfl
@[simp] theorem State.handlerEnter_shadow : (s.handlerEnter).shadow = s.shadow := rfl
@[simp] theorem State.handlerEnter_hwwrcnt : (s.handlerEnter).hwwrcnt = s.hwwrcnt := rfl
@[simp] theorem State.handlerEnter_frame : (s.handlerEnter).frame = s.frame := rfl
@[simp] theorem State.handlerEnter_engine_regs : (s.handlerEnter).engine.regs = s.engine.regs := rfl
@[simp] theorem State.handlerEnter_engine_intpend : (s.handlerEnter).engine.intpend = false := rfl
@[simp] theorem State.handlerEnter_engine_palram : (s.handlerEnter).engine.palram = s.engine.palram := rfl
@[simp] theorem State.handlerEnter_engine_actStart : (s.handlerEnter).engine.actStart = s.engine.actStart := rfl
@[simp] theorem State.handlerEnter_engine_actEnd : (s.handlerEnter).engine.actEnd = s.engine.actEnd := rfl
@[simp] theorem State.handlerEnter_engine_actpal : (s.handlerEnter).engine.actpal = s.engine.actpal := rfl
@[simp] theorem State.handlerEnter_engine_cur : (s.handlerEnter).engine.cur = s.engine.cur := rfl
@[simp] theorem State.handlerEnter_env : (s.handlerEnter).env = s.env := rfl

/-! ### `State.handlerLeave` -/

@[simp] theorem State.handlerLeave_port : (s.handlerLeave).port = s.port := rfl
@[simp] theorem State.handlerLeave_cfg : (s.handlerLeave).cfg = s.cfg := rfl
@[simp] theorem State.handlerLeave_power : (s.handlerLeave).power = s.power := rfl
@[simp] theorem State.handlerLeave_vsync_maskdepth : (s.handlerLeave).vsync.maskdepth = s.vsync.maskdepth := rfl
@[simp] theorem State.handlerLeave_vsync_handler : (s.handlerLeave).vsync.handler = .idle := rfl
@[simp] theorem State.handlerLeave_vsync_vscount : (s.handlerLeave).vsync.vscount = s.vsync.vscount := rfl
@[simp] theorem State.handlerLeave_vsync_waiters : (s.handlerLeave).vsync.waiters = s.vsync.waiters := rfl
@[simp] theorem State.handlerLeave_windows : (s.handlerLeave).windows = s.windows := rfl
@[simp] theorem State.handlerLeave_pend : (s.handlerLeave).pend = s.pend := rfl
@[simp] theorem State.handlerLeave_shadow : (s.handlerLeave).shadow = s.shadow := rfl
@[simp] theorem State.handlerLeave_hwwrcnt : (s.handlerLeave).hwwrcnt = s.hwwrcnt := rfl
@[simp] theorem State.handlerLeave_frame : (s.handlerLeave).frame = s.frame := rfl
@[simp] theorem State.handlerLeave_engine : (s.handlerLeave).engine = s.engine := rfl
@[simp] theorem State.handlerLeave_env : (s.handlerLeave).env = s.env := rfl

/-! ### `State.countVsync` -/

@[simp] theorem State.countVsync_port : (s.countVsync).port = s.port := rfl
@[simp] theorem State.countVsync_cfg : (s.countVsync).cfg = s.cfg := rfl
@[simp] theorem State.countVsync_power : (s.countVsync).power = s.power := rfl
@[simp] theorem State.countVsync_vsync_maskdepth : (s.countVsync).vsync.maskdepth = s.vsync.maskdepth := rfl
@[simp] theorem State.countVsync_vsync_handler : (s.countVsync).vsync.handler = s.vsync.handler := rfl
@[simp] theorem State.countVsync_vsync_vscount : (s.countVsync).vsync.vscount = s.vsync.vscount + 1 := rfl
@[simp] theorem State.countVsync_vsync_waiters : (s.countVsync).vsync.waiters = s.vsync.waiters := rfl
@[simp] theorem State.countVsync_windows : (s.countVsync).windows = s.windows := rfl
@[simp] theorem State.countVsync_pend : (s.countVsync).pend = s.pend := rfl
@[simp] theorem State.countVsync_shadow : (s.countVsync).shadow = s.shadow := rfl
@[simp] theorem State.countVsync_hwwrcnt : (s.countVsync).hwwrcnt = s.hwwrcnt := rfl
@[simp] theorem State.countVsync_frame : (s.countVsync).frame = s.frame := rfl
@[simp] theorem State.countVsync_engine : (s.countVsync).engine = s.engine := rfl
@[simp] theorem State.countVsync_env : (s.countVsync).env = s.env := rfl

/-! ### `State.wakeWaiters` -/

@[simp] theorem State.wakeWaiters_port : (s.wakeWaiters).port = s.port := rfl
@[simp] theorem State.wakeWaiters_cfg : (s.wakeWaiters).cfg = s.cfg := rfl
@[simp] theorem State.wakeWaiters_power : (s.wakeWaiters).power = s.power := rfl
@[simp] theorem State.wakeWaiters_vsync_maskdepth : (s.wakeWaiters).vsync.maskdepth = s.vsync.maskdepth := rfl
@[simp] theorem State.wakeWaiters_vsync_handler : (s.wakeWaiters).vsync.handler = s.vsync.handler := rfl
@[simp] theorem State.wakeWaiters_vsync_vscount : (s.wakeWaiters).vsync.vscount = s.vsync.vscount := rfl
@[simp] theorem State.wakeWaiters_vsync_waiters : (s.wakeWaiters).vsync.waiters = s.vsync.waiters.map (fun w => w.wake s.vsync.vscount) := rfl
@[simp] theorem State.wakeWaiters_windows : (s.wakeWaiters).windows = s.windows := rfl
@[simp] theorem State.wakeWaiters_pend : (s.wakeWaiters).pend = s.pend := rfl
@[simp] theorem State.wakeWaiters_shadow : (s.wakeWaiters).shadow = s.shadow := rfl
@[simp] theorem State.wakeWaiters_hwwrcnt : (s.wakeWaiters).hwwrcnt = s.hwwrcnt := rfl
@[simp] theorem State.wakeWaiters_frame : (s.wakeWaiters).frame = s.frame := rfl
@[simp] theorem State.wakeWaiters_engine : (s.wakeWaiters).engine = s.engine := rfl
@[simp] theorem State.wakeWaiters_env : (s.wakeWaiters).env = s.env := rfl

/-! ### `State.tick` -/

@[simp] theorem State.tick_port : (s.tick).port = s.port := rfl
@[simp] theorem State.tick_cfg : (s.tick).cfg = s.cfg := rfl
@[simp] theorem State.tick_power_pstate : (s.tick).power.pstate = s.power.pstate := rfl
@[simp] theorem State.tick_power_busclkOn : (s.tick).power.busclkOn = s.power.busclkOn := rfl
@[simp] theorem State.tick_power_pixclkOn : (s.tick).power.pixclkOn = s.power.pixclkOn := rfl
@[simp] theorem State.tick_power_snapshot : (s.tick).power.snapshot = s.power.snapshot := rfl
@[simp] theorem State.tick_power_settle : (s.tick).power.settle = s.power.settle - 1 := rfl
@[simp] theorem State.tick_power_retry : (s.tick).power.retry = s.power.retry := rfl
@[simp] theorem State.tick_vsync_maskdepth : (s.tick).vsync.maskdepth = s.vsync.maskdepth := rfl
@[simp] theorem State.tick_vsync_handler : (s.tick).vsync.handler = s.vsync.handler := rfl
@[simp] theorem State.tick_vsync_vscount : (s.tick).vsync.vscount = s.vsync.vscount := rfl
@[simp] theorem State.tick_vsync_waiters : (s.tick).vsync.waiters = s.vsync.waiters.map (fun w => w.tick s.vsync.vscount) := rfl
@[simp] theorem State.tick_windows : (s.tick).windows = s.windows := rfl
@[simp] theorem State.tick_pend : (s.tick).pend = s.pend := rfl
@[simp] theorem State.tick_shadow : (s.tick).shadow = s.shadow := rfl
@[simp] theorem State.tick_hwwrcnt : (s.tick).hwwrcnt = s.hwwrcnt := rfl
@[simp] theorem State.tick_frame : (s.tick).frame = s.frame := rfl
@[simp] theorem State.tick_engine : (s.tick).engine = s.engine := rfl
@[simp] theorem State.tick_env : (s.tick).env = s.env := rfl

/-! ### `State.frameStart` -/

@[simp] theorem State.frameStart_port : (s.frameStart).port = s.port := rfl
@[simp] theorem State.frameStart_cfg : (s.frameStart).cfg = s.cfg := rfl
@[simp] theorem State.frameStart_power : (s.frameStart).power = s.power := rfl
@[simp] theorem State.frameStart_vsync : (s.frameStart).vsync = s.vsync := rfl
@[simp] theorem State.frameStart_windows : (s.frameStart).windows = s.windows := rfl
@[simp] theorem State.frameStart_pend : (s.frameStart).pend = s.pend := rfl
@[simp] theorem State.frameStart_shadow : (s.frameStart).shadow = s.shadow := rfl
@[simp] theorem State.frameStart_hwwrcnt : (s.frameStart).hwwrcnt = s.hwwrcnt := rfl
@[simp] theorem State.frameStart_frame : (s.frameStart).frame = s.frame + 1 := rfl
@[simp] theorem State.frameStart_env : (s.frameStart).env = s.env := rfl

/-! ### `State.emit` -/

@[simp] theorem State.emit_port (o : Output) : (s.emit o).port = s.port := rfl
@[simp] theorem State.emit_cfg (o : Output) : (s.emit o).cfg = s.cfg := rfl
@[simp] theorem State.emit_power (o : Output) : (s.emit o).power = s.power := rfl
@[simp] theorem State.emit_vsync (o : Output) : (s.emit o).vsync = s.vsync := rfl
@[simp] theorem State.emit_windows (o : Output) : (s.emit o).windows = s.windows := rfl
@[simp] theorem State.emit_pend (o : Output) : (s.emit o).pend = s.pend := rfl
@[simp] theorem State.emit_shadow (o : Output) : (s.emit o).shadow = s.shadow := rfl
@[simp] theorem State.emit_hwwrcnt (o : Output) : (s.emit o).hwwrcnt = s.hwwrcnt := rfl
@[simp] theorem State.emit_frame (o : Output) : (s.emit o).frame = s.frame := rfl
@[simp] theorem State.emit_engine (o : Output) : (s.emit o).engine = s.engine := rfl
@[simp] theorem State.emit_env_mem (o : Output) : (s.emit o).env.mem = s.env.mem := rfl
@[simp] theorem State.emit_env_domainReady (o : Output) : (s.emit o).env.domainReady = s.env.domainReady := rfl
@[simp] theorem State.emit_env_schedule (o : Output) : (s.emit o).env.schedule = s.env.schedule := rfl
@[simp] theorem State.emit_env_out (o : Output) : (s.emit o).env.out = o :: s.env.out := rfl
@[simp] theorem State.emit_env_draws (o : Output) : (s.emit o).env.draws = s.env.draws := rfl
@[simp] theorem State.emit_env_turn (o : Output) : (s.emit o).env.turn = s.env.turn := rfl

/-! ### `State.resetStep` -/

@[simp] theorem State.resetStep_port : (s.resetStep).port = Port.reset := rfl
@[simp] theorem State.resetStep_cfg : (s.resetStep).cfg = ConfigBank.reset := rfl
@[simp] theorem State.resetStep_power : (s.resetStep).power = Power.reset := rfl
@[simp] theorem State.resetStep_vsync : (s.resetStep).vsync = Vsync.reset := rfl
@[simp] theorem State.resetStep_windows : (s.resetStep).windows = Vector.replicate Config.nwin Window.created := rfl
@[simp] theorem State.resetStep_pend : (s.resetStep).pend = PalettePending.reset := rfl
@[simp] theorem State.resetStep_shadow : (s.resetStep).shadow = EngineRegs.zero := rfl
@[simp] theorem State.resetStep_hwwrcnt : (s.resetStep).hwwrcnt = 0 := rfl
@[simp] theorem State.resetStep_frame : (s.resetStep).frame = 0 := rfl
@[simp] theorem State.resetStep_engine : (s.resetStep).engine = Engine.lost s.env.draws := rfl
@[simp] theorem State.resetStep_env_mem : (s.resetStep).env.mem = s.env.mem := rfl
@[simp] theorem State.resetStep_env_domainReady : (s.resetStep).env.domainReady = s.env.domainReady := rfl
@[simp] theorem State.resetStep_env_schedule : (s.resetStep).env.schedule = s.env.schedule := rfl
@[simp] theorem State.resetStep_env_out : (s.resetStep).env.out = s.env.out := rfl
@[simp] theorem State.resetStep_env_draws : (s.resetStep).env.draws = s.env.draws + 1 := rfl
@[simp] theorem State.resetStep_env_turn : (s.resetStep).env.turn = s.env.turn := rfl

/-! ### `State.acceptCommand` -/

@[simp] theorem State.acceptCommand_port_cmd (w : Word) : (s.acceptCommand w).port.cmd = w := rfl
@[simp] theorem State.acceptCommand_port_args (w : Word) : (s.acceptCommand w).port.args = s.port.args := rfl
@[simp] theorem State.acceptCommand_port_latch (w : Word) : (s.acceptCommand w).port.latch = s.port.args := rfl
@[simp] theorem State.acceptCommand_port_retval (w : Word) : (s.acceptCommand w).port.retval = s.port.retval := rfl
@[simp] theorem State.acceptCommand_port_result (w : Word) : (s.acceptCommand w).port.result = s.port.result := rfl
@[simp] theorem State.acceptCommand_port_overrun (w : Word) : (s.acceptCommand w).port.overrun = false := rfl
@[simp] theorem State.acceptCommand_port_configured (w : Word) : (s.acceptCommand w).port.configured = s.port.configured := rfl
@[simp] theorem State.acceptCommand_port_fault (w : Word) : (s.acceptCommand w).port.fault = s.port.fault := rfl
@[simp] theorem State.acceptCommand_port_csq (w : Word) : (s.acceptCommand w).port.csq = .accepted := rfl
@[simp] theorem State.acceptCommand_cfg (w : Word) : (s.acceptCommand w).cfg = s.cfg := rfl
@[simp] theorem State.acceptCommand_power (w : Word) : (s.acceptCommand w).power = s.power := rfl
@[simp] theorem State.acceptCommand_vsync (w : Word) : (s.acceptCommand w).vsync = s.vsync := rfl
@[simp] theorem State.acceptCommand_windows (w : Word) : (s.acceptCommand w).windows = s.windows := rfl
@[simp] theorem State.acceptCommand_pend (w : Word) : (s.acceptCommand w).pend = s.pend := rfl
@[simp] theorem State.acceptCommand_shadow (w : Word) : (s.acceptCommand w).shadow = s.shadow := rfl
@[simp] theorem State.acceptCommand_hwwrcnt (w : Word) : (s.acceptCommand w).hwwrcnt = s.hwwrcnt := rfl
@[simp] theorem State.acceptCommand_frame (w : Word) : (s.acceptCommand w).frame = s.frame := rfl
@[simp] theorem State.acceptCommand_engine (w : Word) : (s.acceptCommand w).engine = s.engine := rfl
@[simp] theorem State.acceptCommand_env (w : Word) : (s.acceptCommand w).env = s.env := rfl

/-! ### `State.withCsq` -/

@[simp] theorem State.withCsq_port_cmd (c : Csq) : (s.withCsq c).port.cmd = s.port.cmd := rfl
@[simp] theorem State.withCsq_port_args (c : Csq) : (s.withCsq c).port.args = s.port.args := rfl
@[simp] theorem State.withCsq_port_latch (c : Csq) : (s.withCsq c).port.latch = s.port.latch := rfl
@[simp] theorem State.withCsq_port_retval (c : Csq) : (s.withCsq c).port.retval = s.port.retval := rfl
@[simp] theorem State.withCsq_port_result (c : Csq) : (s.withCsq c).port.result = s.port.result := rfl
@[simp] theorem State.withCsq_port_overrun (c : Csq) : (s.withCsq c).port.overrun = s.port.overrun := rfl
@[simp] theorem State.withCsq_port_configured (c : Csq) : (s.withCsq c).port.configured = s.port.configured := rfl
@[simp] theorem State.withCsq_port_fault (c : Csq) : (s.withCsq c).port.fault = s.port.fault := rfl
@[simp] theorem State.withCsq_port_csq (c : Csq) : (s.withCsq c).port.csq = c := rfl
@[simp] theorem State.withCsq_cfg (c : Csq) : (s.withCsq c).cfg = s.cfg := rfl
@[simp] theorem State.withCsq_power (c : Csq) : (s.withCsq c).power = s.power := rfl
@[simp] theorem State.withCsq_vsync (c : Csq) : (s.withCsq c).vsync = s.vsync := rfl
@[simp] theorem State.withCsq_windows (c : Csq) : (s.withCsq c).windows = s.windows := rfl
@[simp] theorem State.withCsq_pend (c : Csq) : (s.withCsq c).pend = s.pend := rfl
@[simp] theorem State.withCsq_shadow (c : Csq) : (s.withCsq c).shadow = s.shadow := rfl
@[simp] theorem State.withCsq_hwwrcnt (c : Csq) : (s.withCsq c).hwwrcnt = s.hwwrcnt := rfl
@[simp] theorem State.withCsq_frame (c : Csq) : (s.withCsq c).frame = s.frame := rfl
@[simp] theorem State.withCsq_engine (c : Csq) : (s.withCsq c).engine = s.engine := rfl
@[simp] theorem State.withCsq_env (c : Csq) : (s.withCsq c).env = s.env := rfl

/-! ### `State.withHandler` -/

@[simp] theorem State.withHandler_port (h : Handler) : (s.withHandler h).port = s.port := rfl
@[simp] theorem State.withHandler_cfg (h : Handler) : (s.withHandler h).cfg = s.cfg := rfl
@[simp] theorem State.withHandler_power (h : Handler) : (s.withHandler h).power = s.power := rfl
@[simp] theorem State.withHandler_vsync_maskdepth (h : Handler) : (s.withHandler h).vsync.maskdepth = s.vsync.maskdepth := rfl
@[simp] theorem State.withHandler_vsync_handler (h : Handler) : (s.withHandler h).vsync.handler = h := rfl
@[simp] theorem State.withHandler_vsync_vscount (h : Handler) : (s.withHandler h).vsync.vscount = s.vsync.vscount := rfl
@[simp] theorem State.withHandler_vsync_waiters (h : Handler) : (s.withHandler h).vsync.waiters = s.vsync.waiters := rfl
@[simp] theorem State.withHandler_windows (h : Handler) : (s.withHandler h).windows = s.windows := rfl
@[simp] theorem State.withHandler_pend (h : Handler) : (s.withHandler h).pend = s.pend := rfl
@[simp] theorem State.withHandler_shadow (h : Handler) : (s.withHandler h).shadow = s.shadow := rfl
@[simp] theorem State.withHandler_hwwrcnt (h : Handler) : (s.withHandler h).hwwrcnt = s.hwwrcnt := rfl
@[simp] theorem State.withHandler_frame (h : Handler) : (s.withHandler h).frame = s.frame := rfl
@[simp] theorem State.withHandler_engine (h : Handler) : (s.withHandler h).engine = s.engine := rfl
@[simp] theorem State.withHandler_env (h : Handler) : (s.withHandler h).env = s.env := rfl

/-! ### `State.setWindow` -/

@[simp] theorem State.setWindow_port (i : Win) (d : Window) : (s.setWindow i d).port = s.port := rfl
@[simp] theorem State.setWindow_cfg (i : Win) (d : Window) : (s.setWindow i d).cfg = s.cfg := rfl
@[simp] theorem State.setWindow_power (i : Win) (d : Window) : (s.setWindow i d).power = s.power := rfl
@[simp] theorem State.setWindow_vsync (i : Win) (d : Window) : (s.setWindow i d).vsync = s.vsync := rfl
@[simp] theorem State.setWindow_windows (i : Win) (d : Window) : (s.setWindow i d).windows = s.windows.set i d := rfl
@[simp] theorem State.setWindow_pend (i : Win) (d : Window) : (s.setWindow i d).pend = s.pend := rfl
@[simp] theorem State.setWindow_shadow (i : Win) (d : Window) : (s.setWindow i d).shadow = s.shadow := rfl
@[simp] theorem State.setWindow_hwwrcnt (i : Win) (d : Window) : (s.setWindow i d).hwwrcnt = s.hwwrcnt := rfl
@[simp] theorem State.setWindow_frame (i : Win) (d : Window) : (s.setWindow i d).frame = s.frame := rfl
@[simp] theorem State.setWindow_engine (i : Win) (d : Window) : (s.setWindow i d).engine = s.engine := rfl
@[simp] theorem State.setWindow_env (i : Win) (d : Window) : (s.setWindow i d).env = s.env := rfl

/-! ### `State.setPState` -/

@[simp] theorem State.setPState_port (p : PState) : (s.setPState p).port = s.port := rfl
@[simp] theorem State.setPState_cfg (p : PState) : (s.setPState p).cfg = s.cfg := rfl
@[simp] theorem State.setPState_power_pstate (p : PState) : (s.setPState p).power.pstate = p := rfl
@[simp] theorem State.setPState_power_busclkOn (p : PState) : (s.setPState p).power.busclkOn = s.power.busclkOn := rfl
@[simp] theorem State.setPState_power_pixclkOn (p : PState) : (s.setPState p).power.pixclkOn = s.power.pixclkOn := rfl
@[simp] theorem State.setPState_power_snapshot (p : PState) : (s.setPState p).power.snapshot = s.power.snapshot := rfl
@[simp] theorem State.setPState_power_settle (p : PState) : (s.setPState p).power.settle = s.power.settle := rfl
@[simp] theorem State.setPState_power_retry (p : PState) : (s.setPState p).power.retry = s.power.retry := rfl
@[simp] theorem State.setPState_vsync (p : PState) : (s.setPState p).vsync = s.vsync := rfl
@[simp] theorem State.setPState_windows (p : PState) : (s.setPState p).windows = s.windows := rfl
@[simp] theorem State.setPState_pend (p : PState) : (s.setPState p).pend = s.pend := rfl
@[simp] theorem State.setPState_shadow (p : PState) : (s.setPState p).shadow = s.shadow := rfl
@[simp] theorem State.setPState_hwwrcnt (p : PState) : (s.setPState p).hwwrcnt = s.hwwrcnt := rfl
@[simp] theorem State.setPState_frame (p : PState) : (s.setPState p).frame = s.frame := rfl
@[simp] theorem State.setPState_engine (p : PState) : (s.setPState p).engine = s.engine := rfl
@[simp] theorem State.setPState_env (p : PState) : (s.setPState p).env = s.env := rfl

/-! ### `State.setReady` -/

@[simp] theorem State.setReady_port (b : Bool) : (s.setReady b).port = s.port := rfl
@[simp] theorem State.setReady_cfg (b : Bool) : (s.setReady b).cfg = s.cfg := rfl
@[simp] theorem State.setReady_power (b : Bool) : (s.setReady b).power = s.power := rfl
@[simp] theorem State.setReady_vsync (b : Bool) : (s.setReady b).vsync = s.vsync := rfl
@[simp] theorem State.setReady_windows (b : Bool) : (s.setReady b).windows = s.windows := rfl
@[simp] theorem State.setReady_pend (b : Bool) : (s.setReady b).pend = s.pend := rfl
@[simp] theorem State.setReady_shadow (b : Bool) : (s.setReady b).shadow = s.shadow := rfl
@[simp] theorem State.setReady_hwwrcnt (b : Bool) : (s.setReady b).hwwrcnt = s.hwwrcnt := rfl
@[simp] theorem State.setReady_frame (b : Bool) : (s.setReady b).frame = s.frame := rfl
@[simp] theorem State.setReady_engine (b : Bool) : (s.setReady b).engine = s.engine := rfl
@[simp] theorem State.setReady_env_mem (b : Bool) : (s.setReady b).env.mem = s.env.mem := rfl
@[simp] theorem State.setReady_env_domainReady (b : Bool) : (s.setReady b).env.domainReady = b := rfl
@[simp] theorem State.setReady_env_schedule (b : Bool) : (s.setReady b).env.schedule = s.env.schedule := rfl
@[simp] theorem State.setReady_env_out (b : Bool) : (s.setReady b).env.out = s.env.out := rfl
@[simp] theorem State.setReady_env_draws (b : Bool) : (s.setReady b).env.draws = s.env.draws := rfl
@[simp] theorem State.setReady_env_turn (b : Bool) : (s.setReady b).env.turn = s.env.turn := rfl

/-! ### `State.armSlot` -/

@[simp] theorem State.armSlot_port (k : Fin Config.nslot) (t : Word) : (s.armSlot k t).port = s.port := rfl
@[simp] theorem State.armSlot_cfg (k : Fin Config.nslot) (t : Word) : (s.armSlot k t).cfg = s.cfg := rfl
@[simp] theorem State.armSlot_power (k : Fin Config.nslot) (t : Word) : (s.armSlot k t).power = s.power := rfl
@[simp] theorem State.armSlot_vsync_maskdepth (k : Fin Config.nslot) (t : Word) : (s.armSlot k t).vsync.maskdepth = s.vsync.maskdepth := rfl
@[simp] theorem State.armSlot_vsync_handler (k : Fin Config.nslot) (t : Word) : (s.armSlot k t).vsync.handler = s.vsync.handler := rfl
@[simp] theorem State.armSlot_vsync_vscount (k : Fin Config.nslot) (t : Word) : (s.armSlot k t).vsync.vscount = s.vsync.vscount := rfl
@[simp] theorem State.armSlot_windows (k : Fin Config.nslot) (t : Word) : (s.armSlot k t).windows = s.windows := rfl
@[simp] theorem State.armSlot_pend (k : Fin Config.nslot) (t : Word) : (s.armSlot k t).pend = s.pend := rfl
@[simp] theorem State.armSlot_shadow (k : Fin Config.nslot) (t : Word) : (s.armSlot k t).shadow = s.shadow := rfl
@[simp] theorem State.armSlot_hwwrcnt (k : Fin Config.nslot) (t : Word) : (s.armSlot k t).hwwrcnt = s.hwwrcnt := rfl
@[simp] theorem State.armSlot_frame (k : Fin Config.nslot) (t : Word) : (s.armSlot k t).frame = s.frame := rfl
@[simp] theorem State.armSlot_engine (k : Fin Config.nslot) (t : Word) : (s.armSlot k t).engine = s.engine := rfl
@[simp] theorem State.armSlot_env (k : Fin Config.nslot) (t : Word) : (s.armSlot k t).env = s.env := rfl

/-! ### `State.scanPixel` -/

@[simp] theorem State.scanPixel_port (px py : Nat) : (s.scanPixel px py).port = s.port := rfl
@[simp] theorem State.scanPixel_cfg (px py : Nat) : (s.scanPixel px py).cfg = s.cfg := rfl
@[simp] theorem State.scanPixel_power (px py : Nat) : (s.scanPixel px py).power = s.power := rfl
@[simp] theorem State.scanPixel_vsync (px py : Nat) : (s.scanPixel px py).vsync = s.vsync := rfl
@[simp] theorem State.scanPixel_windows (px py : Nat) : (s.scanPixel px py).windows = s.windows := rfl
@[simp] theorem State.scanPixel_pend (px py : Nat) : (s.scanPixel px py).pend = s.pend := rfl
@[simp] theorem State.scanPixel_shadow (px py : Nat) : (s.scanPixel px py).shadow = s.shadow := rfl
@[simp] theorem State.scanPixel_hwwrcnt (px py : Nat) : (s.scanPixel px py).hwwrcnt = s.hwwrcnt := rfl
@[simp] theorem State.scanPixel_frame (px py : Nat) : (s.scanPixel px py).frame = s.frame := rfl
@[simp] theorem State.scanPixel_engine_regs (px py : Nat) : (s.scanPixel px py).engine.regs = s.engine.regs := rfl
@[simp] theorem State.scanPixel_engine_intpend (px py : Nat) : (s.scanPixel px py).engine.intpend = s.engine.intpend := rfl
@[simp] theorem State.scanPixel_engine_palram (px py : Nat) : (s.scanPixel px py).engine.palram = s.engine.palram := rfl
@[simp] theorem State.scanPixel_engine_actStart (px py : Nat) : (s.scanPixel px py).engine.actStart = s.engine.actStart := rfl
@[simp] theorem State.scanPixel_engine_actEnd (px py : Nat) : (s.scanPixel px py).engine.actEnd = s.engine.actEnd := rfl
@[simp] theorem State.scanPixel_engine_actpal (px py : Nat) : (s.scanPixel px py).engine.actpal = s.engine.actpal := rfl
@[simp] theorem State.scanPixel_engine_cur (px py : Nat) : (s.scanPixel px py).engine.cur = s.engine.nextCursor px py := rfl
@[simp] theorem State.scanPixel_env_mem (px py : Nat) : (s.scanPixel px py).env.mem = s.env.mem := rfl
@[simp] theorem State.scanPixel_env_domainReady (px py : Nat) : (s.scanPixel px py).env.domainReady = s.env.domainReady := rfl
@[simp] theorem State.scanPixel_env_schedule (px py : Nat) : (s.scanPixel px py).env.schedule = s.env.schedule := rfl
@[simp] theorem State.scanPixel_env_out (px py : Nat) : (s.scanPixel px py).env.out = .pixel s.frame px py (s.compose px py) :: s.env.out := rfl
@[simp] theorem State.scanPixel_env_draws (px py : Nat) : (s.scanPixel px py).env.draws = s.env.draws + 1 := rfl
@[simp] theorem State.scanPixel_env_turn (px py : Nat) : (s.scanPixel px py).env.turn = s.env.turn := rfl

/-! ### `State.hostMemWrite` -/

@[simp] theorem State.hostMemWrite_port (u : MemUnit) (v : Word) : (s.hostMemWrite u v).port = s.port := rfl
@[simp] theorem State.hostMemWrite_cfg (u : MemUnit) (v : Word) : (s.hostMemWrite u v).cfg = s.cfg := rfl
@[simp] theorem State.hostMemWrite_power (u : MemUnit) (v : Word) : (s.hostMemWrite u v).power = s.power := rfl
@[simp] theorem State.hostMemWrite_vsync (u : MemUnit) (v : Word) : (s.hostMemWrite u v).vsync = s.vsync := rfl
@[simp] theorem State.hostMemWrite_windows (u : MemUnit) (v : Word) : (s.hostMemWrite u v).windows = s.windows := rfl
@[simp] theorem State.hostMemWrite_pend (u : MemUnit) (v : Word) : (s.hostMemWrite u v).pend = s.pend := rfl
@[simp] theorem State.hostMemWrite_shadow (u : MemUnit) (v : Word) : (s.hostMemWrite u v).shadow = s.shadow := rfl
@[simp] theorem State.hostMemWrite_hwwrcnt (u : MemUnit) (v : Word) : (s.hostMemWrite u v).hwwrcnt = s.hwwrcnt := rfl
@[simp] theorem State.hostMemWrite_frame (u : MemUnit) (v : Word) : (s.hostMemWrite u v).frame = s.frame := rfl
@[simp] theorem State.hostMemWrite_engine (u : MemUnit) (v : Word) : (s.hostMemWrite u v).engine = s.engine := rfl
@[simp] theorem State.hostMemWrite_env_mem (u : MemUnit) (v : Word) : (s.hostMemWrite u v).env.mem = s.env.mem.writeLE u.address u.bytes v.toNat := rfl
@[simp] theorem State.hostMemWrite_env_domainReady (u : MemUnit) (v : Word) : (s.hostMemWrite u v).env.domainReady = s.env.domainReady := rfl
@[simp] theorem State.hostMemWrite_env_schedule (u : MemUnit) (v : Word) : (s.hostMemWrite u v).env.schedule = s.env.schedule := rfl
@[simp] theorem State.hostMemWrite_env_out (u : MemUnit) (v : Word) : (s.hostMemWrite u v).env.out = s.env.out := rfl
@[simp] theorem State.hostMemWrite_env_draws (u : MemUnit) (v : Word) : (s.hostMemWrite u v).env.draws = s.env.draws := rfl
@[simp] theorem State.hostMemWrite_env_turn (u : MemUnit) (v : Word) : (s.hostMemWrite u v).env.turn = s.env.turn := rfl

/-! ### `State.palWrite`, which is dropped while PALUPD[i] = 0 -/

@[simp] theorem State.palWrite_port (i : Win) (k : Fin Config.paletteSize) (v : Word) :
    (s.palWrite i k v).port = s.port := by
  unfold State.palWrite; split <;> rfl
@[simp] theorem State.palWrite_cfg (i : Win) (k : Fin Config.paletteSize) (v : Word) :
    (s.palWrite i k v).cfg = s.cfg := by
  unfold State.palWrite; split <;> rfl
@[simp] theorem State.palWrite_power (i : Win) (k : Fin Config.paletteSize) (v : Word) :
    (s.palWrite i k v).power = s.power := by
  unfold State.palWrite; split <;> rfl
@[simp] theorem State.palWrite_vsync (i : Win) (k : Fin Config.paletteSize) (v : Word) :
    (s.palWrite i k v).vsync = s.vsync := by
  unfold State.palWrite; split <;> rfl
@[simp] theorem State.palWrite_windows (i : Win) (k : Fin Config.paletteSize) (v : Word) :
    (s.palWrite i k v).windows = s.windows := by
  unfold State.palWrite; split <;> rfl
@[simp] theorem State.palWrite_pend (i : Win) (k : Fin Config.paletteSize) (v : Word) :
    (s.palWrite i k v).pend = s.pend := by
  unfold State.palWrite; split <;> rfl
@[simp] theorem State.palWrite_shadow (i : Win) (k : Fin Config.paletteSize) (v : Word) :
    (s.palWrite i k v).shadow = s.shadow := by
  unfold State.palWrite; split <;> rfl
@[simp] theorem State.palWrite_frame (i : Win) (k : Fin Config.paletteSize) (v : Word) :
    (s.palWrite i k v).frame = s.frame := by
  unfold State.palWrite; split <;> rfl
@[simp] theorem State.palWrite_env (i : Win) (k : Fin Config.paletteSize) (v : Word) :
    (s.palWrite i k v).env = s.env := by
  unfold State.palWrite; split <;> rfl

/-! ### Updates of updates -/

@[simp] theorem State.withCsq_withCsq (c d : Csq) : (s.withCsq c).withCsq d = s.withCsq d := rfl
@[simp] theorem State.finish_withCsq (c : Csq) (r : Result) (v : Word) : (s.withCsq c).finish r v = s.finish r v := rfl
@[simp] theorem State.withCsq_idle_finish (r : Result) (v : Word) : (s.finish r v).withCsq .idle = s.finish r v := rfl
@[simp] theorem State.mask_unmask : s.mask.unmask = s := rfl
@[simp] theorem State.mask_withCsq (c : Csq) : (s.withCsq c).mask = s.mask.withCsq c := rfl
@[simp] theorem State.unmask_withCsq (c : Csq) : (s.withCsq c).unmask = s.unmask.withCsq c := rfl
@[simp] theorem State.tick_withCsq (c : Csq) : (s.withCsq c).tick = s.tick.withCsq c := rfl
@[simp] theorem State.regWrite_withCsq (c : Csq) (r : RegId) (v : Word) :
    (s.withCsq c).regWrite r v = (s.regWrite r v).withCsq c := rfl

/-! ### The derived flags -/

@[simp] theorem Csq.busy_idle : Csq.idle.busy = false := rfl
@[simp] theorem Csq.busy_accepted : Csq.accepted.busy = true := rfl
@[simp] theorem Csq.busy_running (ops : List MicroOp) : (Csq.running ops).busy = true := rfl
@[simp] theorem Csq.todo_idle : Csq.idle.todo = [] := rfl
@[simp] theorem Csq.todo_accepted : Csq.accepted.todo = [] := rfl
@[simp] theorem Csq.todo_running (ops : List MicroOp) : (Csq.running ops).todo = ops := rfl
@[simp] theorem Handler.todo_idle : Handler.idle.todo = [] := rfl
@[simp] theorem Handler.todo_running (ops : List MicroOp) : (Handler.running ops).todo = ops := rfl

theorem State.not_faulted_of_none {s : State} (h : s.port.fault = none) : s.faulted = false := by
  simp [State.faulted, h]

theorem State.faulted_of_some {s : State} {r : Nat} (h : s.port.fault = some r) : s.faulted = true := by
  simp [State.faulted, h]

end Sys2Proof.Machine
end

