-- ==== Sys2Proof/Laws/Cost.lean ====
section
/-! SUPPORT. The run of a command ends: every step that `autoStep` takes lowers the bound `fuel`, or raises the fault,
after which no step follows. So `complete` never stops short, and unfolds one step at a time. -/

namespace Sys2Proof.Machine

@[simp] theorem costOf_nil : costOf [] = 0 := rfl
@[simp] theorem costOf_cons (op : MicroOp) (ops : List MicroOp) : costOf (op :: ops) = op.cost + costOf ops := rfl
@[simp] theorem costOf_append (a b : List MicroOp) : costOf (a ++ b) = costOf a + costOf b := by
  simp [costOf, List.sum_append]

theorem MicroOp.cost_pos (op : MicroOp) : 1 ≤ op.cost := by
  cases op <;> simp [MicroOp.cost]

/-- The part of `fuel` that does not lie in the agents' lists. -/
def waitBound (s : State) : Nat := (Config.retryBudget - s.power.retry) + s.power.settle

theorem fuel_eq (s : State) :
    fuel s = waitBound s + costOf s.vsync.handler.todo + costOf s.port.csq.todo := rfl

theorem costOf_palWrites (i : Win) (l : List (Fin Config.paletteSize × Word)) :
    costOf (l.map (fun e => MicroOp.palWrite i e.1 e.2)) = l.length := by
  induction l with
  | nil => rfl
  | cons e l ih => simp only [List.map_cons, costOf_cons, ih, MicroOp.cost, List.length_cons]; omega

theorem PendTable.length_values (t : PendTable) : t.values.length ≤ 256 := by
  have h := List.length_filterMap_le (fun k : Fin Config.paletteSize => t[k].map (fun v => (k, v)))
    (List.finRange Config.paletteSize)
  simpa [PendTable.values] using h

theorem costOf_flushSteps (s : State) (i : Win) : costOf (s.flushSteps i) ≤ 263 := by
  have h : ((s.pend.table[i].map PendTable.values).getD []).length ≤ 256 := by
    cases s.pend.table[i] with
    | none => simp
    | some t => exact t.length_values
  simp only [State.flushSteps, costOf_append, costOf_palWrites, costOf_cons, costOf_nil, MicroOp.cost]
  omega

theorem costOf_timingWrites (t : TimingImage) (keep : Word) : costOf (timingWrites t keep) = 18 := rfl

theorem costOf_flatMap_restore (l : List (RegId × Word)) : costOf (l.flatMap restoreSteps) = 3 * l.length := by
  induction l with
  | nil => rfl
  | cons e l ih =>
    have h : costOf (restoreSteps e) = 3 := by unfold restoreSteps; split <;> rfl
    simp only [List.flatMap_cons, costOf_append, ih, h, List.length_cons]; omega

theorem length_shadowIds : shadowIds.length = 51 := by decide

theorem costOf_resumeSteps (snap : Option EngineRegs) : costOf (resumeSteps snap) ≤ 177 := by
  have h : (snapshotList snap).length ≤ 51 := by
    cases snap <;> simp [snapshotList, length_shadowIds]
  simp only [resumeSteps, regUpdateSteps, costOf_append, costOf_flatMap_restore, costOf_cons, costOf_nil, MicroOp.cost]
  omega

theorem costOf_resumeFailSteps : costOf resumeFailSteps = 2 := rfl

@[simp] theorem waitBound_withCsq (s : State) (c : Csq) : waitBound (s.withCsq c) = waitBound s := rfl
@[simp] theorem waitBound_withHandler (s : State) (h : Handler) : waitBound (s.withHandler h) = waitBound s := rfl

/-- What a micro-step may cost: the wait bound and the micro-steps it leads to stay below `c` more than before. -/
def costBelow (s : State) (c : Nat) (p : State × Flow) : Prop :=
  match p.2 with
  | .go first => waitBound p.1 + costOf first < waitBound s + c
  | .jump instead => waitBound p.1 + costOf instead < waitBound s + c
  | .done => waitBound p.1 < waitBound s + c
  | .halt => p.1.faulted = true

/-- What a micro-step leaves of the agents: the handler's list as it was, the sequencer's as it was or ended. -/
def keepsAgents (s : State) (p : State × Flow) : Prop :=
  p.1.vsync.handler = s.vsync.handler ∧ (p.1.port.csq = s.port.csq ∨ p.1.port.csq = .idle)

theorem costBelow_go {s s' : State} {c : Nat} {ops : List MicroOp} (hw : waitBound s' = waitBound s)
    (hc : costOf ops < c) : costBelow s c (s', .go ops) := by
  show waitBound s' + costOf ops < waitBound s + c
  omega

theorem costBelow_done {s s' : State} {c : Nat} (hw : waitBound s' = waitBound s) (hc : 0 < c) :
    costBelow s c (s', .done) := by
  show waitBound s' < waitBound s + c
  omega

theorem costBelow_ite {s : State} {c : Nat} {b : Prop} [Decidable b] {p q : State × Flow} (hp : b → costBelow s c p)
    (hq : ¬b → costBelow s c q) : costBelow s c (if b then p else q) := by
  split
  · exact hp ‹_›
  · exact hq ‹_›

theorem keepsAgents_ite {s : State} {b : Prop} [Decidable b] {p q : State × Flow} (hp : b → keepsAgents s p)
    (hq : ¬b → keepsAgents s q) : keepsAgents s (if b then p else q) := by
  split
  · exact hp ‹_›
  · exact hq ‹_›

theorem microRegHardware_cost (s : State) (r : RegId) (v : Word) : costBelow s 1 (microRegHardware s r v) :=
  costBelow_ite (fun _ => costBelow_go rfl (by simp)) (fun _ => rfl)

theorem microPalWrite_cost (s : State) (i : Win) (k : Fin Config.paletteSize) (v : Word) :
    costBelow s 1 (microPalWrite s i k v) :=
  costBelow_ite (fun _ => costBelow_go (by simp [waitBound, State.palWrite_power]) (by simp)) (fun _ => rfl)

theorem microZeroFill_cost (s : State) (a n : Nat) : costBelow s (n + 1) (microZeroFill s a n) := by
  cases n with
  | zero => exact costBelow_go rfl (by simp)
  | succ n =>
    refine costBelow_go rfl ?_
    split
    · simp
    · simp [MicroOp.cost]

theorem microPoll_cost (s : State) : costBelow s 200 (microPoll s) := by
  refine costBelow_ite (fun _ => costBelow_go rfl (by have := costOf_resumeSteps s.power.snapshot; omega)) fun _ => ?_
  by_cases h : s.power.retry + 1 < Config.retryBudget
  · rw [if_pos h]
    show (Config.retryBudget - (s.power.retry + 1)) + s.power.settle + costOf [MicroOp.pollReady] < waitBound s + 200
    simp only [waitBound, costOf_cons, costOf_nil, MicroOp.cost]
    omega
  · rw [if_neg h]
    show (Config.retryBudget - (s.power.retry + 1)) + s.power.settle + costOf resumeFailSteps < waitBound s + 200
    simp only [waitBound, costOf_resumeFailSteps]
    omega

theorem microRederive_cost (s : State) : costBelow s 19 (microRederive s) := by
  refine costBelow_ite (fun _ => ?_) fun _ => costBelow_go rfl (by simp)
  cases s.cfg.timingCalc with
  | none => show waitBound s + costOf resumeFailSteps < waitBound s + 19; rw [costOf_resumeFailSteps]; omega
  | some t => exact costBelow_go rfl (by simp only [costOf_timingWrites]; omega)

/-- Every micro-step costs less than `MicroOp.cost` says. -/
theorem microStep_cost (op : MicroOp) (s : State) : costBelow s op.cost (microStep op s) := by
  cases op with
  | regHardware r v => exact microRegHardware_cost s r v
  | palWrite i k v => exact microPalWrite_cost s i k v
  | zeroFill a n => exact microZeroFill_cost s a n
  | pollReady => exact microPoll_cost s
  | rederive => exact microRederive_cost s
  | regShadow r keep set => exact costBelow_go rfl (by simp [MicroOp.cost])
  | flushStart i =>
    have := costOf_flushSteps s i
    refine costBelow_go rfl ?_
    split
    · simp only [MicroOp.cost]; omega
    · simp [MicroOp.cost]
  | serveFlush i =>
    refine costBelow_go rfl ?_
    split <;> simp [MicroOp.cost]
  | startSettle =>
    show (Config.retryBudget - s.power.retry) + Config.settleTicks + costOf [] < waitBound s + (Config.settleTicks + 2)
    simp only [waitBound, costOf_nil]; omega
  | retryClear =>
    show (Config.retryBudget - 0) + s.power.settle + costOf [] < waitBound s + (Config.retryBudget + 1)
    simp only [waitBound, costOf_nil]; omega
  | commitTiming d => exact costBelow_done rfl (by simp [MicroOp.cost])
  | commitWindow i d => exact costBelow_done rfl (by simp [MicroOp.cost])
  | commitPan i y b => exact costBelow_done rfl (by simp [MicroOp.cost])
  | commitEnable i on => exact costBelow_done rfl (by simp [MicroOp.cost])
  | returnOk => exact costBelow_done rfl (by simp [MicroOp.cost])
  | enterSuspended => exact costBelow_done rfl (by simp [MicroOp.cost])
  | enterActive => exact costBelow_done rfl (by simp [MicroOp.cost])
  | resumeFailed => exact costBelow_done rfl (by simp [MicroOp.cost])
  | handlerReturn => exact costBelow_done rfl (by simp [MicroOp.cost])
  | _ => exact costBelow_go rfl (by simp [MicroOp.cost])

/-- No micro-step touches the handler's list; it leaves the sequencer's list or ends the command. -/
theorem microStep_agents (op : MicroOp) (s : State) : keepsAgents s (microStep op s) := by
  cases op with
  | regHardware r v => exact keepsAgents_ite (fun _ => ⟨rfl, .inl rfl⟩) (fun _ => ⟨rfl, .inl rfl⟩)
  | palWrite i k v =>
    refine keepsAgents_ite (fun _ => ?_) (fun _ => ⟨rfl, .inl rfl⟩)
    unfold State.palWrite
    split <;> exact ⟨rfl, .inl rfl⟩
  | zeroFill a n => cases n <;> exact ⟨rfl, .inl rfl⟩
  | pollReady => exact keepsAgents_ite (fun _ => ⟨rfl, .inl rfl⟩) (fun _ => ⟨rfl, .inl rfl⟩)
  | rederive =>
    refine keepsAgents_ite (fun _ => ?_) (fun _ => ⟨rfl, .inl rfl⟩)
    cases s.cfg.timingCalc <;> exact ⟨rfl, .inl rfl⟩
  | commitTiming d => exact ⟨rfl, .inr rfl⟩
  | commitWindow i d => exact ⟨rfl, .inr rfl⟩
  | commitPan i y b => exact ⟨rfl, .inr rfl⟩
  | commitEnable i on => exact ⟨rfl, .inr rfl⟩
  | returnOk => exact ⟨rfl, .inr rfl⟩
  | enterSuspended => exact ⟨rfl, .inr rfl⟩
  | enterActive => exact ⟨rfl, .inr rfl⟩
  | resumeFailed => exact ⟨rfl, .inr rfl⟩
  | _ => exact ⟨rfl, .inl rfl⟩

theorem autoStep_faulted {s : State} (h : s.faulted = true) : autoStep s = none := by
  simp [autoStep, h]

theorem costOf_todo_le {c d : Csq} (h : c = d ∨ c = .idle) : costOf c.todo ≤ costOf d.todo := by
  rcases h with h | h <;> simp [h]

theorem sequencerStep_fuel (op : MicroOp) (rest : List MicroOp) (s : State)
    (hc : s.port.csq = .running (op :: rest)) (hh : s.vsync.handler = .idle) :
    (sequencerStep op rest s).faulted = true ∨ fuel (sequencerStep op rest s) < fuel s := by
  have hcost := microStep_cost op s
  have hag := microStep_agents op s
  unfold sequencerStep
  rcases hm : microStep op s with ⟨s', fl⟩
  rw [hm] at hcost hag
  have hag1 : s'.vsync.handler = s.vsync.handler := hag.1
  cases fl with
  | go first =>
    right
    simp only [fuel_eq, waitBound_withCsq, State.withCsq_vsync, State.withCsq_port_csq, Csq.todo_running, hag1, hh, hc,
      Handler.todo_idle, costOf_append, costOf_cons, costOf_nil]
    simp only [costBelow] at hcost; omega
  | jump l =>
    right
    simp only [fuel_eq, waitBound_withCsq, State.withCsq_vsync, State.withCsq_port_csq, Csq.todo_running, hag1, hh, hc,
      Handler.todo_idle, costOf_cons, costOf_nil]
    simp only [costBelow] at hcost; omega
  | done =>
    right
    simp only [fuel_eq, waitBound_withCsq, State.withCsq_vsync, State.withCsq_port_csq, Csq.todo_running, Csq.todo_idle,
      hag1, hh, hc, Handler.todo_idle, costOf_cons, costOf_nil]
    simp only [costBelow] at hcost; omega
  | halt => exact .inl hcost

theorem handlerStep_fuel (op : MicroOp) (rest : List MicroOp) (s : State)
    (hh : s.vsync.handler = .running (op :: rest)) :
    (handlerStep op rest s).faulted = true ∨ fuel (handlerStep op rest s) < fuel s := by
  have hcost := microStep_cost op s
  have hag := microStep_agents op s
  unfold handlerStep
  rcases hm : microStep op s with ⟨s', fl⟩
  rw [hm] at hcost hag
  have hag1 : s'.vsync.handler = s.vsync.handler := hag.1
  have hcs : costOf s'.port.csq.todo ≤ costOf s.port.csq.todo := costOf_todo_le hag.2
  cases fl with
  | go first =>
    right
    simp only [fuel_eq, waitBound_withHandler, State.withHandler_port, State.withHandler_vsync_handler,
      Handler.todo_running, hh, costOf_append, costOf_cons]
    simp only [costBelow] at hcost; omega
  | jump l =>
    right
    simp only [fuel_eq, waitBound_withHandler, State.withHandler_port, State.withHandler_vsync_handler,
      Handler.todo_running, hh, costOf_cons]
    simp only [costBelow] at hcost; omega
  | done =>
    right
    have hw : waitBound s'.handlerLeave = waitBound s' := rfl
    simp only [fuel_eq, hw, State.handlerLeave_port, State.handlerLeave_vsync_handler,
      Handler.todo_running, Handler.todo_idle, hh, costOf_cons, costOf_nil]
    simp only [costBelow] at hcost; omega
  | halt => exact .inl hcost

/-- Every step that `autoStep` takes lowers the fuel or raises the fault. -/
theorem autoStep_fuel {s s' : State} (h : autoStep s = some s') : s'.faulted = true ∨ fuel s' < fuel s := by
  unfold autoStep at h
  split at h
  · cases h
  · split at h
    · rename_i op rest hh
      cases h; exact handlerStep_fuel op rest s hh
    · cases h
    · rename_i hh
      split at h
      · rename_i op rest hc
        split at h
        · rename_i hw
          cases h
          right
          have hpos : 0 < s.power.settle := by simp [waitsForSettle] at hw; exact hw.2
          simp only [fuel, State.tick_power_retry, State.tick_power_settle, State.tick_vsync_handler, State.tick_port]
          omega
        · cases h; exact sequencerStep_fuel op rest s hc hh
      · cases h

theorem fuel_pos {s s' : State} (h : autoStep s = some s') : 0 < fuel s := by
  unfold autoStep at h
  split at h
  · cases h
  · split at h
    · rename_i op rest hh
      have := op.cost_pos
      simp only [fuel_eq, hh, Handler.todo_running, costOf_cons]; omega
    · cases h
    · split at h
      · rename_i op rest hc
        have := op.cost_pos
        simp only [fuel_eq, hc, Csq.todo_running, costOf_cons]; omega
      · cases h

@[simp] theorem settleDown_zero (s : State) : settleDown 0 s = s := rfl

theorem settleDown_none {s : State} (h : autoStep s = none) (n : Nat) : settleDown n s = s := by
  cases n <;> simp [settleDown, h]

theorem settleDown_succ {s s' : State} (h : autoStep s = some s') (n : Nat) :
    settleDown (n + 1) s = settleDown n s' := by
  simp [settleDown, h]

/-- Any bound of at least the fuel gives the same end. -/
theorem settleDown_enough (n : Nat) : ∀ (s : State) (m : Nat), fuel s ≤ n → n ≤ m → settleDown m s = settleDown n s := by
  induction n with
  | zero =>
    intro s m hn _
    cases h : autoStep s with
    | none => rw [settleDown_none h, settleDown_none h]
    | some s' => have := fuel_pos h; omega
  | succ n ih =>
    intro s m hn hm
    cases h : autoStep s with
    | none => rw [settleDown_none h, settleDown_none h]
    | some s' =>
      obtain ⟨m, rfl⟩ : ∃ k, m = k + 1 := ⟨m - 1, by omega⟩
      rw [settleDown_succ h, settleDown_succ h]
      rcases autoStep_fuel h with hf | hf
      · rw [settleDown_none (autoStep_faulted hf), settleDown_none (autoStep_faulted hf)]
      · exact ih s' m (by omega) (by omega)

theorem complete_none {s : State} (h : autoStep s = none) : complete s = s := settleDown_none h _

/-- `complete` takes one step of `autoStep` and goes on. -/
theorem complete_some {s s' : State} (h : autoStep s = some s') : complete s = complete s' := by
  have hpos := fuel_pos h
  unfold complete
  obtain ⟨n, hn⟩ : ∃ k, fuel s = k + 1 := ⟨fuel s - 1, by omega⟩
  rw [hn, settleDown_succ h]
  rcases autoStep_fuel h with hf | hf
  · rw [settleDown_none (autoStep_faulted hf), settleDown_none (autoStep_faulted hf)]
  · exact settleDown_enough (fuel s') s' n (le_refl _) (by omega)

/-- After `complete` nothing is left that `autoStep` could do. -/
theorem settleDown_stops (n : Nat) : ∀ s : State, fuel s ≤ n → autoStep (settleDown n s) = none := by
  induction n with
  | zero =>
    intro s hn
    cases h : autoStep s with
    | none => simpa using h
    | some s' => have := fuel_pos h; omega
  | succ n ih =>
    intro s hn
    cases h : autoStep s with
    | none => rw [settleDown_none h]; exact h
    | some s' =>
      rw [settleDown_succ h]
      rcases autoStep_fuel h with hf | hf
      · rw [settleDown_none (autoStep_faulted hf)]; exact autoStep_faulted hf
      · exact ih s' (by omega)

theorem autoStep_complete (s : State) : autoStep (complete s) = none := settleDown_stops _ s (le_refl _)

end Sys2Proof.Machine
end

