-- ==== Sys2Proof/Laws/Run.lean ====
section
/-! SUPPORT. How `complete` runs a command's micro-steps one after the other: one lemma per kind of micro-step, and one
each for a whole `RegWrite`, a whole zero-fill, a whole flush and a whole settle wait. -/

namespace Sys2Proof.Machine

/-- Neither a fault nor a running handler keeps the sequencer from its next micro-step. -/
def State.free (s : State) : Prop := s.port.fault = none ∧ s.vsync.handler = .idle

theorem State.undisturbed.free {s : State} (h : s.undisturbed) : s.free := ⟨h.1, h.2.1⟩

theorem State.withCsq_self (s : State) : s.withCsq s.port.csq = s := rfl

/-- With nothing scheduled a command runs undisturbed. -/
theorem launch_undisturbed {s : State} (h : s.undisturbed) (steps : List MicroOp) :
    launch s steps = .next (complete (s.withCsq (.running steps))) := by
  unfold launch
  rw [h.2.2]
  rfl

/-! ### One micro-step -/

theorem autoStep_running {s : State} (h : s.free) (op : MicroOp) (rest : List MicroOp) :
    autoStep (s.withCsq (.running (op :: rest)))
      = some (if waitsForSettle op s.power.settle then (s.withCsq (.running (op :: rest))).tick
              else sequencerStep op rest (s.withCsq (.running (op :: rest)))) := by
  have hf : (s.withCsq (.running (op :: rest))).faulted = false := by
    show s.port.fault.isSome = false
    rw [h.1]; rfl
  have hh : (s.withCsq (.running (op :: rest))).vsync.handler = .idle := h.2
  unfold autoStep
  rw [hf, hh]
  rfl

theorem autoStep_idle {s : State} (hh : s.vsync.handler = .idle) (hc : s.port.csq.todo = []) : autoStep s = none := by
  unfold autoStep
  rw [hh]
  split
  · rfl
  · cases hq : s.port.csq with
    | idle => rfl
    | accepted => rfl
    | running l =>
      rw [hq] at hc
      have : l = [] := hc
      subst this; rfl

/-- A command that has ended is left as it is. -/
theorem complete_ended {s : State} (hh : s.vsync.handler = .idle) : complete (s.withCsq .idle) = s.withCsq .idle :=
  complete_none (autoStep_idle hh rfl)

theorem complete_finish {s : State} (hh : s.vsync.handler = .idle) (r : Result) (v : Word) :
    complete (s.finish r v) = s.finish r v :=
  complete_none (autoStep_idle hh rfl)

theorem complete_running {s : State} (h : s.free) {op : MicroOp} (rest : List MicroOp)
    (hw : waitsForSettle op s.power.settle = false) :
    complete (s.withCsq (.running (op :: rest)))
      = complete (sequencerStep op rest (s.withCsq (.running (op :: rest)))) := by
  have ha := autoStep_running h op rest
  rw [hw] at ha
  exact complete_some ha

variable {s : State} (rest : List MicroOp)

theorem complete_maskEnter (h : s.free) :
    complete (s.withCsq (.running (.maskEnter :: rest))) = complete (s.mask.withCsq (.running rest)) :=
  complete_running h rest rfl

theorem complete_maskLeave (h : s.free) :
    complete (s.withCsq (.running (.maskLeave :: rest))) = complete (s.unmask.withCsq (.running rest)) :=
  complete_running h rest rfl

theorem complete_regShadow (h : s.free) (r : RegId) (keep set : Word) :
    complete (s.withCsq (.running (.regShadow r keep set :: rest)))
      = complete ((s.writeShadow r (s.composed r keep set)).withCsq
          (.running (.regHardware r (s.composed r keep set) :: .regUnmask :: rest))) :=
  complete_running h rest rfl

theorem complete_regHardware (h : s.free) (hb : s.power.busclkOn = true) (r : RegId) (v : Word) :
    complete (s.withCsq (.running (.regHardware r v :: rest)))
      = complete ((s.writeHardware r v).withCsq (.running rest)) := by
  rw [complete_running h rest rfl]
  unfold sequencerStep
  have : microStep (.regHardware r v) (s.withCsq (.running (.regHardware r v :: rest)))
      = ((s.withCsq (.running (.regHardware r v :: rest))).writeHardware r v, .go []) := if_pos hb
  rw [this]; rfl

theorem complete_regUnmask (h : s.free) :
    complete (s.withCsq (.running (.regUnmask :: rest))) = complete (s.unmask.withCsq (.running rest)) :=
  complete_running h rest rfl

/-- A whole `RegWrite` with the bus clock on (rule R40). -/
theorem complete_regWrite (h : s.free) (hb : s.power.busclkOn = true) (r : RegId) (keep set : Word) :
    complete (s.withCsq (.running (.regShadow r keep set :: rest)))
      = complete ((s.regWrite r (s.composed r keep set)).withCsq (.running rest)) := by
  have h1 : (s.writeShadow r (s.composed r keep set)).free := h
  have h2 : ((s.writeShadow r (s.composed r keep set)).writeHardware r (s.composed r keep set)).free := h
  rw [complete_regShadow rest h r keep set, complete_regHardware _ h1 hb, complete_regUnmask _ h2]
  rfl

/-- `RegWrite` with the bus clock off: the fault, with the shadow written and the interrupt still masked (rules R40,
R256). -/
theorem complete_regWrite_gated (h : s.free) (hb : s.power.busclkOn = false) (r : RegId) (keep set : Word) :
    complete (s.withCsq (.running (.regShadow r keep set :: rest)))
      = ((s.writeShadow r (s.composed r keep set)).raise r.offset).withCsq
          (.running (.regHardware r (s.composed r keep set) :: .regUnmask :: rest)) := by
  have h1 : (s.writeShadow r (s.composed r keep set)).free := h
  rw [complete_regShadow rest h r keep set, complete_running h1 _ rfl]
  unfold sequencerStep
  have : ∀ t : State, t.power.busclkOn = false →
      microStep (.regHardware r (s.composed r keep set)) t = (t.raise r.offset, .halt) := by
    intro t ht
    show microRegHardware t r _ = _
    unfold microRegHardware
    rw [ht]; rfl
  rw [this (State.withCsq (s.writeShadow r _) (.running (_ :: _))) hb]
  exact complete_none (autoStep_faulted rfl)

/-! ### The other commands' micro-steps -/

/-- A whole zero-fill (rule R157). -/
theorem complete_zeroFill (h : s.free) (a n : Nat) :
    complete (s.withCsq (.running (.zeroFill a n :: rest)))
      = complete (State.withCsq { s with env := { s.env with mem := s.env.mem.zeroed a n } } (.running rest)) := by
  induction n generalizing s a with
  | zero => exact complete_running h rest rfl
  | succ n ih =>
    rw [complete_running h rest rfl]
    cases n with
    | zero => rfl
    | succ n =>
      have h1 : State.free { s with env := { s.env with mem := s.env.mem.write a 0 } } := h
      exact ih h1 (a + 1)

/-- Several palette writes, in order (rules R186, R187). -/
theorem complete_palWrites (h : s.free) (hb : s.power.busclkOn = true) (i : Win)
    (l : List (Fin Config.paletteSize × Word)) :
    complete (s.withCsq (.running (l.map (fun e => MicroOp.palWrite i e.1 e.2) ++ rest)))
      = complete ((l.foldl (fun t e => t.palWrite i e.1 e.2) s).withCsq (.running rest)) := by
  induction l generalizing s with
  | nil => rfl
  | cons e l ih =>
    have h1 : (s.palWrite i e.1 e.2).free := by
      unfold State.palWrite; split <;> exact h
    have hb1 : (s.palWrite i e.1 e.2).power.busclkOn = true := by simpa using hb
    rw [List.map_cons, List.cons_append, complete_running h _ rfl]
    unfold sequencerStep
    have hm : ∀ t : State, t.power.busclkOn = true →
        microStep (.palWrite i e.1 e.2) t = (t.palWrite i e.1 e.2, .go []) := fun t ht => if_pos ht
    rw [hm (s.withCsq (.running (_ :: _))) hb]
    have hw : ∀ c d : Csq, ((s.withCsq c).palWrite i e.1 e.2).withCsq d = (s.palWrite i e.1 e.2).withCsq d := by
      intro c d
      unfold State.palWrite
      show (if s.engine.regs.palupd i = true then _ else _ : State).withCsq d = _
      split <;> rfl
    simp only [List.nil_append]
    rw [hw]
    exact ih h1 hb1

theorem complete_flushClear (h : s.free) (i : Win) :
    complete (s.withCsq (.running (.flushClear i :: rest)))
      = complete (State.withCsq { s with pend := s.pend.cleared i } (.running rest)) :=
  complete_running h rest rfl

theorem complete_requestFlush (h : s.free) (i : Win) :
    complete (s.withCsq (.running (.requestFlush i :: rest)))
      = complete (State.withCsq { s with pend := s.pend.setRequest i true } (.running rest)) :=
  complete_running h rest rfl

theorem complete_flushStart (h : s.free) (i : Win) :
    complete (s.withCsq (.running (.flushStart i :: rest)))
      = complete (s.withCsq (.running ((if s.pend.dirty[i] then s.flushSteps i else []) ++ rest))) :=
  complete_running h rest rfl

/-! ### The power commands' micro-steps -/

theorem complete_enterSuspending (h : s.free) :
    complete (s.withCsq (.running (.enterSuspending :: rest)))
      = complete ((s.setPState .suspending).withCsq (.running rest)) :=
  complete_running h rest rfl

theorem complete_capture (h : s.free) :
    complete (s.withCsq (.running (.capture :: rest)))
      = complete (State.withCsq { s with power := { s.power with snapshot := some s.shadow } } (.running rest)) :=
  complete_running h rest rfl

theorem complete_idlePins (h : s.free) :
    complete (s.withCsq (.running (.idlePins :: rest)))
      = complete ((s.emit .idlePinsReq).withCsq (.running rest)) :=
  complete_running h rest rfl

theorem complete_startSettle (h : s.free) :
    complete (s.withCsq (.running (.startSettle :: rest)))
      = complete (State.withCsq { s with power := { s.power with settle := Config.settleTicks } } (.running rest)) :=
  complete_running h rest rfl

/-- The settle wait: one TICK for each unit of SETTLE, then the gating (rules R235, R236). -/
theorem complete_gateWhenSettled (h : s.free) (n : Nat) (hn : s.power.settle = n) :
    complete (s.withCsq (.running (.gateWhenSettled :: rest)))
      = complete ((State.ticked n s).gateClocks.withCsq (.running rest)) := by
  induction n generalizing s with
  | zero =>
    have hw : waitsForSettle .gateWhenSettled s.power.settle = false := by rw [hn]; rfl
    exact complete_running h rest hw
  | succ n ih =>
    have ha := autoStep_running h .gateWhenSettled rest
    have hw : waitsForSettle .gateWhenSettled s.power.settle = true := by rw [hn]; rfl
    rw [hw] at ha
    rw [complete_some ha]
    have h1 : s.tick.free := h
    have hn1 : s.tick.power.settle = n := by
      show s.power.settle - 1 = n
      omega
    exact ih h1 hn1

theorem complete_enterResuming (h : s.free) :
    complete (s.withCsq (.running (.enterResuming :: rest)))
      = complete ((s.setPState .resuming).withCsq (.running rest)) :=
  complete_running h rest rfl

theorem complete_clocksOn (h : s.free) :
    complete (s.withCsq (.running (.clocksOn :: rest)))
      = complete (State.withCsq { s with power := { s.power with busclkOn := true, pixclkOn := true } } (.running rest)) :=
  complete_running h rest rfl

theorem complete_retryClear (h : s.free) :
    complete (s.withCsq (.running (.retryClear :: rest)))
      = complete (State.withCsq { s with power := { s.power with retry := 0 } } (.running rest)) :=
  complete_running h rest rfl

theorem complete_dropSnapshot (h : s.free) :
    complete (s.withCsq (.running (.dropSnapshot :: rest)))
      = complete (State.withCsq { s with power := { s.power with snapshot := none } } (.running rest)) :=
  complete_running h rest rfl

theorem complete_gateFailed (h : s.free) :
    complete (s.withCsq (.running (.gateFailed :: rest))) = complete (s.gateClocks.withCsq (.running rest)) :=
  complete_running h rest rfl

theorem complete_pollReady (h : s.free) (hr : s.env.domainReady = true) :
    complete (s.withCsq (.running (.pollReady :: rest)))
      = complete (s.withCsq (.running (resumeSteps s.power.snapshot ++ rest))) := by
  rw [complete_running h rest rfl]
  unfold sequencerStep
  have hm : ∀ t : State, t.env.domainReady = true →
      microStep .pollReady t = (t, .go (resumeSteps t.power.snapshot)) := fun t ht => if_pos ht
  rw [hm (s.withCsq (.running (_ :: _))) hr]; rfl

/-- The readiness poll of a domain that never becomes ready: the whole budget, then the fail path (rule R238). -/
theorem complete_pollReady_never (h : s.free) (hr : s.env.domainReady = false) (n : Nat)
    (hn : s.power.retry + n + 1 = Config.retryBudget) :
    complete (s.withCsq (.running (.pollReady :: rest)))
      = complete (State.withCsq { s with power := { s.power with retry := Config.retryBudget } }
          (.running resumeFailSteps)) := by
  have hm : ∀ t : State, t.env.domainReady = false →
      microStep .pollReady t
        = ({ t with power := { t.power with retry := t.power.retry + 1 } },
           if t.power.retry + 1 < Config.retryBudget then .go [.pollReady] else .jump resumeFailSteps) := by
    intro t ht
    show microPoll t = _
    unfold microPoll
    rw [ht]; rfl
  induction n generalizing s with
  | zero =>
    rw [complete_running h rest rfl]
    unfold sequencerStep
    rw [hm (s.withCsq (.running (_ :: _))) hr]
    have hlt : ¬ ((s.withCsq (.running (.pollReady :: rest))).power.retry + 1 < Config.retryBudget) := by
      show ¬ (s.power.retry + 1 < _); omega
    rw [if_neg hlt, ← hn]
    rfl
  | succ n ih =>
    rw [complete_running h rest rfl]
    unfold sequencerStep
    rw [hm (s.withCsq (.running (_ :: _))) hr]
    have hlt : (s.withCsq (.running (.pollReady :: rest))).power.retry + 1 < Config.retryBudget := by
      show s.power.retry + 1 < _; omega
    rw [if_pos hlt]
    have h1 : State.free { s with power := { s.power with retry := s.power.retry + 1 } } := h
    exact ih h1 hr (by show s.power.retry + 1 + n + 1 = _; omega)

theorem complete_rederive (h : s.free) (hc : s.port.configured = true) {t : TimingImage}
    (ht : s.cfg.timingCalc = some t) :
    complete (s.withCsq (.running (.rederive :: rest)))
      = complete (s.withCsq (.running (timingWrites t 0xFFFF00FE ++ rest))) := by
  rw [complete_running h rest rfl]
  unfold sequencerStep
  have hm : ∀ q : State, q.port.configured = true → q.cfg.timingCalc = some t →
      microStep .rederive q = (q, .go (timingWrites t 0xFFFF00FE)) := by
    intro q h1 h2
    show microRederive q = _
    unfold microRederive
    rw [h1, h2]; rfl
  rw [hm (s.withCsq (.running (_ :: _))) hc ht]; rfl

theorem complete_rederive_illegal (h : s.free) (hc : s.port.configured = true) (ht : s.cfg.timingCalc = none) :
    complete (s.withCsq (.running (.rederive :: rest)))
      = complete (s.withCsq (.running resumeFailSteps)) := by
  rw [complete_running h rest rfl]
  unfold sequencerStep
  have hm : ∀ q : State, q.port.configured = true → q.cfg.timingCalc = none →
      microStep .rederive q = (q, .jump resumeFailSteps) := by
    intro q h1 h2
    show microRederive q = _
    unfold microRederive
    rw [h1, h2]; rfl
  rw [hm (s.withCsq (.running (_ :: _))) hc ht]; rfl

theorem complete_rederive_unconfigured (h : s.free) (hc : s.port.configured = false) :
    complete (s.withCsq (.running (.rederive :: rest))) = complete (s.withCsq (.running rest)) := by
  rw [complete_running h rest rfl]
  unfold sequencerStep
  have hm : ∀ q : State, q.port.configured = false → microStep .rederive q = (q, .go []) := by
    intro q h1
    show microRederive q = _
    unfold microRederive
    rw [h1]; rfl
  rw [hm (s.withCsq (.running (_ :: _))) hc]; rfl

/-! ### The last micro-steps -/

theorem complete_returnOk (h : s.free) : complete (s.withCsq (.running (.returnOk :: rest))) = s.finish .ok 0 := by
  rw [complete_running h rest rfl]
  exact complete_finish h.2 .ok 0

theorem complete_commitTiming (h : s.free) (d : Nat) :
    complete (s.withCsq (.running (.commitTiming d :: rest)))
      = State.finish { s with port := { s.port with configured := true } } .ok (word d) := by
  rw [complete_running h rest rfl]
  exact complete_finish (s := { s with port := { s.port with configured := true } }) h.2 .ok (word d)

theorem complete_commitWindow (h : s.free) (i : Win) (d : Window) :
    complete (s.withCsq (.running (.commitWindow i d :: rest)))
      = State.finish { s.setWindow i d with pend := s.pend.reformat i (d.format.getD .rgb888) } .ok 0 := by
  rw [complete_running h rest rfl]
  exact complete_finish (s := { s.setWindow i d with pend := s.pend.reformat i (d.format.getD .rgb888) }) h.2 .ok 0

theorem complete_commitPan (h : s.free) (i : Win) (y : Nat) (b : Bool) :
    complete (s.withCsq (.running (.commitPan i y b :: rest)))
      = (s.setWindow i (s.windows[i].panned y b)).finish .ok 0 := by
  rw [complete_running h rest rfl]
  exact complete_finish (s := s.setWindow i (s.windows[i].panned y b)) h.2 .ok 0

theorem complete_commitEnable (h : s.free) (i : Win) (on : Bool) :
    complete (s.withCsq (.running (.commitEnable i on :: rest)))
      = (s.setWindow i { s.windows[i] with enabled := on }).finish .ok 0 := by
  rw [complete_running h rest rfl]
  exact complete_finish (s := s.setWindow i { s.windows[i] with enabled := on }) h.2 .ok 0

theorem complete_enterSuspended (h : s.free) :
    complete (s.withCsq (.running (.enterSuspended :: rest))) = (s.setPState .suspended).finish .ok 0 := by
  rw [complete_running h rest rfl]
  exact complete_finish (s := s.setPState .suspended) h.2 .ok 0

theorem complete_enterActive (h : s.free) :
    complete (s.withCsq (.running (.enterActive :: rest))) = (s.setPState .active).finish .ok 0 := by
  rw [complete_running h rest rfl]
  exact complete_finish (s := s.setPState .active) h.2 .ok 0

theorem complete_resumeFailed (h : s.free) :
    complete (s.withCsq (.running (.resumeFailed :: rest)))
      = (s.setPState .suspended).finish .powerSequenceFailed 0 := by
  rw [complete_running h rest rfl]
  exact complete_finish (s := s.setPState .suspended) h.2 .powerSequenceFailed 0

end Sys2Proof.Machine
end

