-- ==== Sys2Proof/Laws/Writes.lean ====
section
/-! SUPPORT. Lists of `RegWrite`s: what a list leaves alone, what it leaves in a register, and how a command runs it;
and the few facts about words that composed values need. -/

namespace Sys2Proof.Machine

variable {s : State}

@[simp] theorem word_and_ones (w : Word) : w &&& 0xFFFFFFFF#32 = w := BitVec.and_allOnes
@[simp] theorem word_and_zero_or (w v : Word) : (w &&& 0#32) ||| v = v := by simp

theorem bit_or_one (w : Word) : bit (w ||| 1#32) 0 = true := by simp [bit]
theorem bit_and_not_one (w : Word) : bit (w &&& ~~~1#32) 0 = false := by simp [bit]

/-- A composed value that keeps nothing of the shadow. -/
theorem State.composed_zero (s : State) (r : RegId) (v : Word) : s.composed r 0 v = r.wired v := by
  simp [State.composed]

theorem State.composed_ones (s : State) (r : RegId) (v : Word) :
    s.composed r 0xFFFFFFFF v = r.wired (s.shadow.get r ||| v) := by
  simp [State.composed]

theorem State.composed_or_zero (s : State) (r : RegId) (keep : Word) :
    s.composed r keep 0 = r.wired (s.shadow.get r &&& keep) := by
  simp [State.composed]

/-- The engine after a write that sets OUT_EN. -/
theorem Engine.writeReg_ctrl_on (e : Engine) {v : Word} (h : bit v 0 = true) :
    e.writeReg .ctrl v
      = if e.regs.outEn then { e with regs := { e.regs with ctrl := v } }
        else Engine.frameStartLoad { e with regs := { e.regs with ctrl := v } } := by
  have h1 : ({ e with regs := e.regs.put .ctrl v } : Engine).regs.outEn = true := h
  unfold Engine.writeReg Engine.outputEdge
  rw [if_pos h1]
  rfl

/-- The engine after a write that clears OUT_EN. -/
theorem Engine.writeReg_ctrl_off (e : Engine) {v : Word} (h : bit v 0 = false) :
    e.writeReg .ctrl v
      = { e with
          regs := { e.regs with ctrl := v }
          cur := if e.regs.outEn then .idle else e.cur
          intpend := if e.regs.outEn then false else e.intpend } := by
  have h1 : ({ e with regs := e.regs.put .ctrl v } : Engine).regs.outEn = false := h
  unfold Engine.writeReg Engine.outputEdge
  rw [if_neg (by rw [h1]; decide)]
  split <;> rfl

/-! ### What stays -/

theorem State.free_regWrite (h : s.free) (r : RegId) (v : Word) : (s.regWrite r v).free := h
theorem State.clocked_regWrite (h : s.clocked) (r : RegId) (v : Word) : (s.regWrite r v).clocked := h
@[simp] theorem State.writeAll_nil : s.writeAll [] = s := rfl
@[simp] theorem State.writeAll_cons (w : RegId × Word) (l : List (RegId × Word)) :
    s.writeAll (w :: l) = (s.regWrite w.1 w.2).writeAll l := rfl
theorem State.writeAll_append (l m : List (RegId × Word)) : s.writeAll (l ++ m) = (s.writeAll l).writeAll m := by
  simp [State.writeAll, List.foldl_append]

/-- A list of writes touches the shadow, the engine domain and HWWRCNT, and nothing else. -/
theorem State.writeAll_eq (l : List (RegId × Word)) :
    s.writeAll l
      = { s with shadow := (s.writeAll l).shadow, engine := (s.writeAll l).engine, hwwrcnt := (s.writeAll l).hwwrcnt } := by
  induction l generalizing s with
  | nil => rfl
  | cons w l ih =>
    have h := ih (s := s.regWrite w.1 w.2)
    rw [State.writeAll_cons]
    exact h

@[simp] theorem State.writeAll_port (l : List (RegId × Word)) : (s.writeAll l).port = s.port := by rw [writeAll_eq]
@[simp] theorem State.writeAll_cfg (l : List (RegId × Word)) : (s.writeAll l).cfg = s.cfg := by rw [writeAll_eq]
@[simp] theorem State.writeAll_power (l : List (RegId × Word)) : (s.writeAll l).power = s.power := by rw [writeAll_eq]
@[simp] theorem State.writeAll_vsync (l : List (RegId × Word)) : (s.writeAll l).vsync = s.vsync := by rw [writeAll_eq]
@[simp] theorem State.writeAll_windows (l : List (RegId × Word)) : (s.writeAll l).windows = s.windows := by
  rw [writeAll_eq]
@[simp] theorem State.writeAll_pend (l : List (RegId × Word)) : (s.writeAll l).pend = s.pend := by rw [writeAll_eq]
@[simp] theorem State.writeAll_frame (l : List (RegId × Word)) : (s.writeAll l).frame = s.frame := by rw [writeAll_eq]
@[simp] theorem State.writeAll_env (l : List (RegId × Word)) : (s.writeAll l).env = s.env := by rw [writeAll_eq]

theorem State.free_writeAll (h : s.free) (l : List (RegId × Word)) : (s.writeAll l).free := by
  unfold State.free
  rw [State.writeAll_port, State.writeAll_vsync]
  exact h

theorem State.clocked_writeAll (h : s.clocked) (l : List (RegId × Word)) : (s.writeAll l).clocked := by
  unfold State.clocked
  rw [State.writeAll_power]
  exact h

/-- HWWRCNT counts each write (rule R29). -/
theorem State.writeAll_hwwrcnt (l : List (RegId × Word)) :
    (s.writeAll l).hwwrcnt = s.hwwrcnt + BitVec.ofNat 32 l.length := by
  induction l generalizing s with
  | nil => simp
  | cons w l ih =>
    rw [State.writeAll_cons, ih, show (s.regWrite w.1 w.2).hwwrcnt = s.hwwrcnt + 1 from rfl, List.length_cons,
      BitVec.ofNat_add, BitVec.add_assoc, BitVec.add_comm (1 : Word)]
    rfl

/-- Writes that leave CTRL alone leave INTPEND alone. -/
theorem State.writeAll_intpend (l : List (RegId × Word)) (h : ∀ w ∈ l, w.1 ≠ .ctrl) :
    (s.writeAll l).engine.intpend = s.engine.intpend := by
  induction l generalizing s with
  | nil => rfl
  | cons w l ih =>
    rw [State.writeAll_cons, ih fun x hx => h x (by simp [hx])]
    show (s.engine.writeReg w.1 w.2).intpend = _
    rw [s.engine.writeReg_ne_ctrl (h w (by simp)) w.2]

/-- PALRAM is not written by a `RegWrite`. -/
@[simp] theorem State.writeAll_palram (l : List (RegId × Word)) : (s.writeAll l).engine.palram = s.engine.palram := by
  induction l generalizing s with
  | nil => rfl
  | cons w l ih => rw [State.writeAll_cons, ih]; exact Engine.writeReg_palram _ _ _

/-- The value that the last write of register `q` in the list gives it, `none` when the list does not write it. -/
def lastWrite (l : List (RegId × Word)) (q : RegId) : Option Word :=
  l.foldl (fun acc w => if q = w.1 then some w.2 else acc) none

theorem lastWrite_foldl (l : List (RegId × Word)) (q : RegId) (a : Option Word) :
    l.foldl (fun acc w => if q = w.1 then some w.2 else acc) a = (lastWrite l q).or a := by
  induction l generalizing a with
  | nil => rfl
  | cons w l ih =>
    unfold lastWrite
    rw [List.foldl_cons, List.foldl_cons, ih, ih]
    cases lastWrite l q <;> split <;> rfl

theorem lastWrite_cons (w : RegId × Word) (l : List (RegId × Word)) (q : RegId) :
    lastWrite (w :: l) q = (lastWrite l q).or (if q = w.1 then some w.2 else none) := lastWrite_foldl l q _

/-- The shadow and the hardware after a list of writes: the last value written, else the old one (rules R39, R40). -/
theorem State.writeAll_get (l : List (RegId × Word)) (q : RegId) :
    (s.writeAll l).shadow.get q = (lastWrite l q).getD (s.shadow.get q)
      ∧ (s.writeAll l).engine.regs.get q = (lastWrite l q).getD (s.engine.regs.get q) := by
  induction l generalizing s with
  | nil => exact ⟨rfl, rfl⟩
  | cons w l ih =>
    have h := ih (s := s.regWrite w.1 w.2)
    rw [State.writeAll_cons, h.1, h.2, (s.regWrite_get w.1 q w.2).1, (s.regWrite_get w.1 q w.2).2, lastWrite_cons]
    cases lastWrite l q <;> split <;> exact ⟨rfl, rfl⟩

/-! ### How a command runs a list of writes -/

/-- A list of `RegWrite`s with values that do not depend on the shadow. -/
theorem complete_writes (h : s.free) (hb : s.clocked) (l : List (RegId × Word)) (rest : List MicroOp)
    (hw : ∀ w ∈ l, w.1.wired w.2 = w.2) :
    complete (s.withCsq (.running (l.map (fun w => MicroOp.regShadow w.1 0 w.2) ++ rest)))
      = complete ((s.writeAll l).withCsq (.running rest)) := by
  induction l generalizing s with
  | nil => rfl
  | cons w l ih =>
    rw [List.map_cons, List.cons_append, complete_regWrite _ h hb, State.composed_zero, hw w (by simp)]
    exact ih (State.free_regWrite h _ _) (State.clocked_regWrite hb _ _) (fun w' hw' => hw w' (by simp [hw']))

/-- `RegWrite`s do not see the interrupt mask: masking first or last is the same. -/
theorem State.mask_writeAll (l : List (RegId × Word)) : s.mask.writeAll l = (s.writeAll l).mask := by
  induction l generalizing s with
  | nil => rfl
  | cons w l ih =>
    rw [State.writeAll_cons, State.writeAll_cons, ← ih]
    rfl

/-- Leaving the mask undoes entering it (rule R41). -/
@[simp] theorem State.unmask_mask : s.mask.unmask = s := rfl

/-- A `RegWrite` in the command's first place with the bus clock off. -/
theorem complete_first_gated (h : s.free) (hb : s.power.busclkOn = false) (r : RegId) (keep set : Word)
    (rest : List MicroOp) :
    FaultedAt s (complete (s.withCsq (.running (.regShadow r keep set :: rest)))) r (s.composed r keep set) 1 :=
  ⟨_, complete_regWrite_gated rest h hb r keep set⟩

/-- A `RegWrite` in the first place of a `Masked` block, with the bus clock off. -/
theorem complete_masked_gated (h : s.free) (hb : s.power.busclkOn = false) (r : RegId) (keep set : Word)
    (rest : List MicroOp) :
    FaultedAt s (complete (s.withCsq (.running (.maskEnter :: .regShadow r keep set :: rest)))) r (s.composed r keep set)
      2 := by
  have hm : s.mask.free := h
  exact ⟨_, (complete_maskEnter _ h).trans (complete_regWrite_gated rest hm hb r keep set)⟩

end Sys2Proof.Machine
end

