-- ==== Sys2Proof/Laws/Sequences.lean ====
section
/-! SUPPORT. What whole sequences of micro-steps do: the address-latch sequence, a flush by the sequencer and by the
handler, the settle wait, the restore of a resume; and equality of states field by field. -/

namespace Sys2Proof.Machine

/-- Two states with the same fields are the same. -/
theorem State.eq_of_fields {a b : State} (h1 : a.port = b.port) (h2 : a.cfg = b.cfg) (h3 : a.power = b.power)
    (h4 : a.vsync = b.vsync) (h5 : a.windows = b.windows) (h6 : a.pend = b.pend) (h7 : a.shadow = b.shadow)
    (h8 : a.hwwrcnt = b.hwwrcnt) (h9 : a.frame = b.frame) (h10 : a.engine = b.engine) (h11 : a.env = b.env) :
    a = b := by
  cases a; cases b; simp_all

/-! ### Words -/

theorem word_clear_set (w b : Word) : (w &&& ~~~b) ||| b = w ||| b := by
  apply BitVec.eq_of_getLsbD_eq
  intro i hi
  simp [hi]
  cases w[i] <;> cases b[i] <;> rfl

theorem word_set_clear (w b : Word) : (w ||| b) &&& ~~~b = w &&& ~~~b := by
  apply BitVec.eq_of_getLsbD_eq
  intro i hi
  simp [hi]
  cases w[i] <;> cases b[i] <;> rfl

theorem bit_or_oneHot (w : Word) (i : Win) : bit (w ||| oneHot i.val) i.val = true := by
  have : ∀ i : Win, (oneHot i.val).getLsbD i.val = true := by decide
  unfold bit
  rw [BitVec.getLsbD_or, this]
  simp

/-! ### The first check on a window number -/

theorem onWindow_invalid {s : State} {win : Nat} (h : 5 ≤ win) (body : Win → Host.Outcome State Fault Refusal) :
    onWindow s win body = .next (s.finish .invalidWindow 0) := by
  unfold onWindow windowIndex
  rw [dif_neg (by simp [Config.nwin]; omega)]
  rfl

theorem onWindow_valid {s : State} (i : Win) (body : Win → Host.Outcome State Fault Refusal) :
    onWindow s i.val body = body i := by
  unfold onWindow windowIndex
  rw [dif_pos i.isLt]

/-! ### Lists of writes -/

/-- A list of `RegWrite`s with values that do not depend on the shadow, each value as its register takes it. -/
theorem complete_writes_wired {s : State} (h : s.free) (hb : s.clocked) (l : List (RegId × Word))
    (rest : List MicroOp) :
    complete (s.withCsq (.running (l.map (fun w => MicroOp.regShadow w.1 0 w.2) ++ rest)))
      = complete ((s.writeAll (l.map fun w => (w.1, w.1.wired w.2))).withCsq (.running rest)) := by
  induction l generalizing s with
  | nil => rfl
  | cons w l ih =>
    rw [List.map_cons, List.cons_append, complete_regWrite _ h hb, State.composed_zero]
    exact ih (State.free_regWrite h _ _) (State.clocked_regWrite hb _ _)

theorem lastWrite_append (a b : List (RegId × Word)) (q : RegId) :
    lastWrite (a ++ b) q = (lastWrite b q).or (lastWrite a q) := by
  unfold lastWrite
  rw [List.foldl_append]
  exact lastWrite_foldl b q _

/-- Writes of other registers than CTRL change the engine's registers and nothing else of the engine domain. -/
theorem State.writeAll_engine {s : State} (l : List (RegId × Word)) (hn : ∀ w ∈ l, w.1 ≠ .ctrl) :
    (s.writeAll l).engine = { s.engine with regs := (s.writeAll l).engine.regs } := by
  induction l generalizing s with
  | nil => rfl
  | cons w l ih =>
    rw [State.writeAll_cons, ih (fun w' hw' => hn w' (by simp [hw']))]
    have : (s.regWrite w.1 w.2).engine = _ := Engine.writeReg_ne_ctrl s.engine (hn w (by simp)) w.2
    rw [this]

/-- The address-latch sequence of WCFG and WPAN around the micro-steps `mid`, which write the list `ws` (rules R41,
R158, R166). -/
theorem complete_latched {s : State} (h : s.free) (hb : s.clocked) (i : Win) (mid : List MicroOp)
    (ws : List (RegId × Word)) (rest : List MicroOp)
    (hm : ∀ (t : State) (after : List MicroOp), t.free → t.clocked → t.shadow.win[i].ctl = s.shadow.win[i].ctl →
      complete (t.withCsq (.running (mid ++ after))) = complete ((t.writeAll ws).withCsq (.running after)))
    (hl : lastWrite ws .alatch = none) :
    complete (s.withCsq (.running (maskedSteps (regUpdateSteps .alatch (~~~(oneHot i.val)) 0 ++ mid
        ++ regUpdateSteps .alatch 0xFFFFFFFF (oneHot i.val)) ++ rest)))
      = complete ((s.writeAll ([(.alatch, s.shadow.alatch &&& ~~~(oneHot i.val))] ++ ws
          ++ [(.alatch, s.shadow.alatch ||| oneHot i.val)])).withCsq (.running rest)) := by
  have e1 : maskedSteps (regUpdateSteps .alatch (~~~(oneHot i.val)) 0 ++ mid
        ++ regUpdateSteps .alatch 0xFFFFFFFF (oneHot i.val)) ++ rest
      = .maskEnter :: .regShadow .alatch (~~~(oneHot i.val)) 0
          :: (mid ++ (.regShadow .alatch 0xFFFFFFFF (oneHot i.val) :: .maskLeave :: rest)) := by
    simp [maskedSteps, regUpdateSteps]
  have hfm : s.mask.free := h
  have hbm : s.mask.clocked := hb
  have hf1 := State.free_regWrite hfm .alatch (RegId.alatch.wired (s.mask.shadow.get .alatch &&& ~~~(oneHot i.val)))
  have hb1 := State.clocked_regWrite hbm .alatch (RegId.alatch.wired (s.mask.shadow.get .alatch &&& ~~~(oneHot i.val)))
  have hf2 := State.free_writeAll hf1 ws
  have hb2 := State.clocked_writeAll hb1 ws
  rw [e1, complete_maskEnter _ h, complete_regWrite _ hfm hbm, State.composed_or_zero, hm _ _ hf1 hb1 rfl,
    complete_regWrite _ hf2 hb2, complete_maskLeave _ (State.free_regWrite hf2 _ _), State.composed_ones,
    (State.writeAll_get ws .alatch).1, hl]
  congr 1
  rw [State.writeAll_append, State.writeAll_append, State.writeAll_cons, State.writeAll_cons, State.writeAll_nil,
    State.writeAll_nil]
  show _ = ((((s.regWrite .alatch (s.shadow.alatch &&& ~~~(oneHot i.val))).writeAll ws).regWrite .alatch
    (s.shadow.alatch ||| oneHot i.val)).mask.unmask).withCsq _
  have hg : (Option.getD none ((s.mask.regWrite .alatch
      (RegId.alatch.wired (s.mask.shadow.get .alatch &&& ~~~(oneHot i.val)))).shadow.get .alatch)) ||| oneHot i.val
      = s.shadow.alatch ||| oneHot i.val := word_clear_set _ _
  have h4 : s.mask.regWrite .alatch (RegId.alatch.wired (s.mask.shadow.get .alatch &&& ~~~(oneHot i.val)))
      = (s.regWrite .alatch (s.shadow.alatch &&& ~~~(oneHot i.val))).mask := rfl
  rw [hg, h4, State.mask_writeAll]
  rfl

/-! ### The handler's micro-steps -/

/-- The running handler takes its micro-steps before anything else (rule R263). -/
theorem complete_handling {s : State} (h : s.port.fault = none) (op : MicroOp) (rest : List MicroOp) :
    complete (s.withHandler (.running (op :: rest)))
      = complete (handlerStep op rest (s.withHandler (.running (op :: rest)))) := by
  apply complete_some
  have hf : (s.withHandler (.running (op :: rest))).faulted = false := by
    show s.port.fault.isSome = false
    rw [h]; rfl
  unfold autoStep
  rw [hf]
  rfl

/-- A whole `RegWrite` by the handler (rules R40, R262). -/
theorem complete_handling_regWrite {s : State} (h : s.port.fault = none) (hb : s.clocked) (r : RegId)
    (keep set : Word) (rest : List MicroOp) :
    complete (s.withHandler (.running (.regShadow r keep set :: rest)))
      = complete ((s.regWrite r (s.composed r keep set)).withHandler (.running rest)) := by
  have h1 : (s.writeShadow r (s.composed r keep set)).port.fault = none := h
  have h2 : ((s.writeShadow r (s.composed r keep set)).writeHardware r (s.composed r keep set)).port.fault = none := h
  rw [complete_handling h]
  show complete ((s.writeShadow r (s.composed r keep set)).withHandler (.running
    (.regHardware r (s.composed r keep set) :: .regUnmask :: rest))) = _
  rw [complete_handling h1]
  unfold handlerStep
  have : ∀ t : State, t.power.busclkOn = true → microStep (.regHardware r (s.composed r keep set)) t
      = (t.writeHardware r (s.composed r keep set), .go []) := fun t ht => if_pos ht
  rw [this (State.withHandler (s.writeShadow r _) (.running (_ :: _))) hb]
  show complete (((s.writeShadow r (s.composed r keep set)).writeHardware r (s.composed r keep set)).withHandler
    (.running (.regUnmask :: rest))) = _
  rw [complete_handling h2]
  rfl

/-- Several palette writes by the handler (rules R186, R187, R262). -/
theorem complete_handling_palWrites {s : State} (h : s.port.fault = none) (hb : s.clocked) (i : Win)
    (l : List (Fin Config.paletteSize × Word)) (rest : List MicroOp) :
    complete (s.withHandler (.running (l.map (fun e => MicroOp.palWrite i e.1 e.2) ++ rest)))
      = complete ((l.foldl (fun t e => t.palWrite i e.1 e.2) s).withHandler (.running rest)) := by
  induction l generalizing s with
  | nil => rfl
  | cons e l ih =>
    have h1 : (s.palWrite i e.1 e.2).port.fault = none := by unfold State.palWrite; split <;> exact h
    have hb1 : (s.palWrite i e.1 e.2).clocked := by unfold State.palWrite; split <;> exact hb
    rw [List.map_cons, List.cons_append, complete_handling h]
    unfold handlerStep
    have hm : ∀ t : State, t.power.busclkOn = true →
        microStep (.palWrite i e.1 e.2) t = (t.palWrite i e.1 e.2, .go []) := fun t ht => if_pos ht
    rw [hm (s.withHandler (.running (_ :: _))) hb]
    have hw : ∀ c d : Handler,
        ((s.withHandler c).palWrite i e.1 e.2).withHandler d = (s.palWrite i e.1 e.2).withHandler d := by
      intro c d
      unfold State.palWrite
      show (if s.engine.regs.palupd i = true then _ else _ : State).withHandler d = _
      split <;> rfl
    simp only [List.nil_append]
    rw [hw]
    exact ih h1 hb1

/-! ### A flush (rule R187) -/

/-- Several palette writes while PALUPD is on, as one update. -/
theorem State.palWrites_eq {s : State} (i : Win) (h : s.engine.regs.palupd i = true)
    (l : List (Fin Config.paletteSize × Word)) :
    l.foldl (fun t e => t.palWrite i e.1 e.2) s
      = { s with
          hwwrcnt := s.hwwrcnt + word l.length
          engine := { s.engine with
            palram := s.engine.palram.set i
              { s.engine.palram[i] with
                words := l.foldl (fun w e => w.set e.1 (some e.2)) s.engine.palram[i].words } } } := by
  induction l generalizing s with
  | nil =>
    have : s.engine.palram.set i s.engine.palram[i] = s.engine.palram := by simp
    refine Eq.symm (State.eq_of_fields rfl rfl rfl rfl rfl rfl rfl (by simp [word]) rfl ?_ rfl)
    exact congrArg (fun p => { s.engine with palram := p }) this
  | cons e l ih =>
    rw [List.foldl_cons, State.palWrite_of_on s i e.1 e.2 h, ih (by exact h)]
    have h1 : s.hwwrcnt + 1 + word l.length = s.hwwrcnt + word (l.length + 1) := by
      unfold word
      rw [BitVec.ofNat_add, BitVec.add_assoc, BitVec.add_comm (1 : Word)]
      rfl
    simp [Engine.writePalette, List.foldl_cons]
    exact h1

theorem paletteWords_set (w : Vector (Option Word) Config.paletteSize) (k j : Fin Config.paletteSize)
    (v : Option Word) : (w.set k v)[j] = if j = k then v else w[j] := by
  by_cases h : j = k
  · subst h; simp
  · have : ¬ (k.val = j.val) := fun h' => h (Fin.ext h'.symm)
    simp [h, Vector.getElem_set_ne, this]

theorem PendTable.foldl_entries (t : PendTable) (ks : List (Fin Config.paletteSize)) (hn : ks.Nodup)
    (w : Vector (Option Word) Config.paletteSize) (j : Fin Config.paletteSize) :
    ((ks.filterMap (fun k => t[k].map (fun v => (k, v)))).foldl (fun w e => w.set e.1 (some e.2)) w)[j]
      = if j ∈ ks then (t[j]).or w[j] else w[j] := by
  induction ks generalizing w with
  | nil => simp
  | cons k ks ih =>
    have hk : k ∉ ks := (List.nodup_cons.mp hn).1
    have hn' := (List.nodup_cons.mp hn).2
    cases hv : t[k] with
    | none =>
      rw [List.filterMap_cons_none (by simp [hv]), ih hn']
      by_cases hj : j = k
      · subst hj; simp [hk, hv]
      · simp [hj]
    | some v =>
      rw [List.filterMap_cons_some (b := (k, v)) (by simp [hv]), List.foldl_cons, ih hn', paletteWords_set]
      by_cases hj : j = k
      · subst hj; simp [hk, hv]
      · simp [hj]

/-- A flush leaves every `Value` of the table in the palette memory and every other word alone (rule R187 f3). -/
theorem PaletteMem.flushedBy_words (p : PaletteMem) (t : PendTable) :
    t.values.foldl (fun w e => w.set e.1 (some e.2)) p.words = (p.flushedBy t).words := by
  apply Vector.ext
  intro k hk
  have h := t.foldl_entries (List.finRange Config.paletteSize) (List.nodup_finRange _) p.words ⟨k, hk⟩
  simp only [List.mem_finRange, if_true] at h
  refine h.trans ?_
  simp [PaletteMem.flushedBy]

/-- The writes of a flush of a dirty table, in order, are `State.flushed` (rule R187). -/
theorem State.flush_effect {s : State} (i : Win) (hd : s.pend.dirty[i] = true)
    (vs : List (Fin Config.paletteSize × Word)) (hv : (s.pend.table[i].map PendTable.values).getD [] = vs)
    (a b : State) (ha : a = s.regWrite .palctl (s.composed .palctl 0xFFFFFFFF (oneHot i.val)))
    (hb : b = vs.foldl (fun t e => t.palWrite i e.1 e.2) a) :
    { b.regWrite .palctl (b.composed .palctl (~~~(oneHot i.val)) 0) with
      pend := (b.regWrite .palctl (b.composed .palctl (~~~(oneHot i.val)) 0)).pend.cleared i } = s.flushed i := by
  have hR : ∀ (X : State) (v : Word), X.regWrite .palctl v
      = { X with
          shadow := X.shadow.put .palctl v
          hwwrcnt := X.hwwrcnt + 1
          engine := { X.engine with regs := X.engine.regs.put .palctl v } } := by
    intro X v
    have : (X.regWrite .palctl v).engine = _ := Engine.writeReg_ne_ctrl _ (by decide) v
    exact State.eq_of_fields rfl rfl rfl rfl rfl rfl rfl rfl rfl this rfl
  rw [State.composed_ones, RegId.wired_palctl, hR] at ha
  have hp : a.engine.regs.palupd i = true := by rw [ha]; exact bit_or_oneHot _ _
  rw [State.palWrites_eq i hp] at hb
  rw [hR, State.composed_or_zero, RegId.wired_palctl]
  have hsh : b.shadow.get .palctl = s.shadow.palctl ||| oneHot i.val := by rw [hb, ha]; rfl
  rw [hsh, word_set_clear]
  subst hb
  subst ha
  simp only [EngineRegs.put_put]
  have hcnt : s.hwwrcnt + 1 + word vs.length + 1 = s.hwwrcnt + word (vs.length + 2) := by
    unfold word
    rw [BitVec.ofNat_add, BitVec.add_assoc, BitVec.add_assoc, BitVec.add_comm (1 : Word), BitVec.add_assoc]
    rfl
  rw [hcnt]
  unfold State.flushed
  rw [hd]
  cases ht : s.pend.table[i] with
  | none =>
    rw [ht] at hv
    simp at hv
    subst hv
    have : s.engine.palram.set i s.engine.palram[i] = s.engine.palram := by simp
    simp only [List.foldl_nil, this]
    rfl
  | some t =>
    rw [ht] at hv
    simp at hv
    subst hv
    simp only [PaletteMem.flushedBy_words]
    rfl

theorem State.flushSteps_append (s : State) (i : Win) (rest : List MicroOp) :
    s.flushSteps i ++ rest = .regShadow .palctl 0xFFFFFFFF (oneHot i.val)
      :: (((s.pend.table[i].map PendTable.values).getD []).map (fun e => MicroOp.palWrite i e.1 e.2)
          ++ (.regShadow .palctl (~~~(oneHot i.val)) 0 :: .flushClear i :: rest)) := by
  simp [State.flushSteps]

theorem State.free_palWrites {s : State} (h : s.free) (i : Win) (l : List (Fin Config.paletteSize × Word)) :
    (l.foldl (fun t e => t.palWrite i e.1 e.2) s).free := by
  induction l generalizing s with
  | nil => exact h
  | cons e l ih =>
    refine ih ?_
    show (s.palWrite i e.1 e.2).free
    unfold State.palWrite
    split <;> exact h

theorem State.clocked_palWrites {s : State} (h : s.clocked) (i : Win) (l : List (Fin Config.paletteSize × Word)) :
    (l.foldl (fun t e => t.palWrite i e.1 e.2) s).clocked := by
  induction l generalizing s with
  | nil => exact h
  | cons e l ih =>
    refine ih ?_
    show (s.palWrite i e.1 e.2).clocked
    unfold State.palWrite
    split <;> exact h

theorem State.unfaulted_palWrites {s : State} (h : s.port.fault = none) (i : Win)
    (l : List (Fin Config.paletteSize × Word)) :
    (l.foldl (fun t e => t.palWrite i e.1 e.2) s).port.fault = none := by
  induction l generalizing s with
  | nil => exact h
  | cons e l ih =>
    refine ih ?_
    show (s.palWrite i e.1 e.2).port.fault = none
    unfold State.palWrite
    split <;> exact h

/-- A whole flush by the sequencer (rule R187). -/
theorem complete_flush {s : State} (h : s.free) (hb : s.clocked) (i : Win) (rest : List MicroOp) :
    complete (s.withCsq (.running (.flushStart i :: rest))) = complete ((s.flushed i).withCsq (.running rest)) := by
  rw [complete_flushStart _ h]
  cases hd : s.pend.dirty[i] with
  | false =>
    have : s.flushed i = s := by unfold State.flushed; rw [hd]
    rw [this]; rfl
  | true =>
    rw [if_pos rfl, State.flushSteps_append, complete_regWrite _ h hb]
    have hf1 := State.free_regWrite h .palctl (s.composed .palctl 0xFFFFFFFF (oneHot i.val))
    have hb1 := State.clocked_regWrite hb .palctl (s.composed .palctl 0xFFFFFFFF (oneHot i.val))
    generalize hv : (s.pend.table[i].map PendTable.values).getD [] = vs
    rw [complete_palWrites _ hf1 hb1]
    have hf2 := State.free_palWrites hf1 i vs
    have hb2 := State.clocked_palWrites hb1 i vs
    have he := State.flush_effect i hd vs hv _ _ rfl rfl
    generalize List.foldl (fun t e => t.palWrite i e.1 e.2)
      (s.regWrite .palctl (s.composed .palctl 0xFFFFFFFF (oneHot i.val))) vs = b at *
    rw [complete_regWrite _ hf2 hb2, complete_flushClear _ (State.free_regWrite hf2 _ _), he]

/-- A whole flush by the handler (rules R187, R262). -/
theorem complete_handling_flush {s : State} (h : s.port.fault = none) (hb : s.clocked) (i : Win)
    (rest : List MicroOp) :
    complete (s.withHandler (.running (.flushStart i :: rest)))
      = complete ((s.flushed i).withHandler (.running rest)) := by
  rw [complete_handling h]
  show complete (s.withHandler (.running ((if s.pend.dirty[i] then s.flushSteps i else []) ++ rest))) = _
  cases hd : s.pend.dirty[i] with
  | false =>
    have : s.flushed i = s := by unfold State.flushed; rw [hd]
    rw [this]; rfl
  | true =>
    rw [if_pos rfl, State.flushSteps_append, complete_handling_regWrite h hb]
    have hf1 : (s.regWrite .palctl (s.composed .palctl 0xFFFFFFFF (oneHot i.val))).port.fault = none := h
    have hb1 := State.clocked_regWrite hb .palctl (s.composed .palctl 0xFFFFFFFF (oneHot i.val))
    generalize hv : (s.pend.table[i].map PendTable.values).getD [] = vs
    rw [complete_handling_palWrites hf1 hb1]
    have hf2 := State.unfaulted_palWrites hf1 i vs
    have hb2 := State.clocked_palWrites hb1 i vs
    have he := State.flush_effect i hd vs hv _ _ rfl rfl
    generalize List.foldl (fun t e => t.palWrite i e.1 e.2)
      (s.regWrite .palctl (s.composed .palctl 0xFFFFFFFF (oneHot i.val))) vs = b at *
    rw [complete_handling_regWrite hf2 hb2]
    have hf3 : (b.regWrite .palctl (b.composed .palctl (~~~(oneHot i.val)) 0)).port.fault = none := hf2
    rw [complete_handling hf3]
    show complete (State.withHandler { b.regWrite .palctl (b.composed .palctl (~~~(oneHot i.val)) 0) with
      pend := (b.regWrite .palctl (b.composed .palctl (~~~(oneHot i.val)) 0)).pend.cleared i } _) = _
    rw [he]
    rfl

/-- Handler h4 for one window (rule R262). -/
theorem complete_handling_serve {s : State} (h : s.port.fault = none) (hb : s.clocked) (i : Win)
    (rest : List MicroOp) :
    complete (s.withHandler (.running (.serveFlush i :: rest)))
      = complete ((s.served i).withHandler (.running rest)) := by
  rw [complete_handling h]
  show complete (s.withHandler (.running
    ((if s.pend.request[i] then [.flushStart i, .clearRequest i] else []) ++ rest))) = _
  unfold State.served
  cases hr : s.pend.request[i] with
  | false => rfl
  | true =>
    rw [if_pos rfl, if_pos rfl]
    show complete (s.withHandler (.running (.flushStart i :: .clearRequest i :: rest))) = _
    rw [complete_handling_flush h hb]
    have h1 : (s.flushed i).port.fault = none := by
      unfold State.flushed
      split <;> exact h
    rw [complete_handling h1]
    rfl

/-! ### The settle wait and the restore (rules R235, R237) -/

/-- `n` TICKs touch the waiter slots and the settle counter, and nothing else. -/
theorem State.ticked_eq (n : Nat) (s : State) : State.ticked n s
    = { s with
        vsync := (State.ticked n s).vsync
        power := { s.power with settle := s.power.settle - n } } := by
  induction n generalizing s with
  | zero => rfl
  | succ n ih =>
    have h := ih s.tick
    show State.ticked n s.tick = _
    rw [h]
    show State.mk _ _ { s.power with settle := s.power.settle - 1 - n } _ _ _ _ _ _ _ _ = _
    rw [Nat.sub_sub, Nat.add_comm 1 n]
    rfl

/-- What `n` TICKs do to the vsync unit depends on the vsync unit alone. -/
theorem State.ticked_vsync (n : Nat) (s t : State) (h : s.vsync = t.vsync) :
    (State.ticked n s).vsync = (State.ticked n t).vsync := by
  induction n generalizing s t with
  | zero => exact h
  | succ n ih =>
    apply ih
    simp only [State.tick]
    rw [h]

theorem State.ticked_succ (n : Nat) (s : State) : State.ticked (n + 1) s = (State.ticked n s).tick := by
  induction n generalizing s with
  | zero => rfl
  | succ n ih => exact ih s.tick

@[simp] theorem State.ticked_handler (n : Nat) (s : State) :
    (State.ticked n s).vsync.handler = s.vsync.handler := by
  induction n generalizing s with
  | zero => rfl
  | succ n ih => exact ih s.tick

@[simp] theorem State.ticked_vscount (n : Nat) (s : State) :
    (State.ticked n s).vsync.vscount = s.vsync.vscount := by
  induction n generalizing s with
  | zero => rfl
  | succ n ih => exact ih s.tick

@[simp] theorem State.ticked_maskdepth (n : Nat) (s : State) :
    (State.ticked n s).vsync.maskdepth = s.vsync.maskdepth := by
  induction n generalizing s with
  | zero => rfl
  | succ n ih => exact ih s.tick

/-- The restore of a snapshot is a list of writes (rules R233, R239). -/
theorem restoreSteps_snapshot (snap : EngineRegs) :
    (snapshotList (some snap)).flatMap restoreSteps
      = (shadowIds.map fun r => (r, if r = .ctrl then snap.get r &&& ~~~1#32 else snap.get r)).map
          (fun w => MicroOp.regShadow w.1 0 w.2) := by
  unfold snapshotList
  simp only
  induction shadowIds with
  | nil => rfl
  | cons r l ih =>
    rw [List.map_cons, List.flatMap_cons, ih, List.map_cons, List.map_cons]
    simp only [restoreSteps]
    split <;> rfl

/-- The whole restore (rule R237 s5). -/
theorem complete_restore {s : State} (h : s.free) (hb : s.clocked) (snap : EngineRegs) (rest : List MicroOp) :
    complete (s.withCsq (.running ((snapshotList (some snap)).flatMap restoreSteps ++ rest)))
      = complete ((s.writeAll (restoreList snap)).withCsq (.running rest)) := by
  rw [restoreSteps_snapshot, complete_writes_wired h hb]
  unfold restoreList
  rw [List.map_map]
  rfl

/-- The whole re-derivation when it succeeds (rule R237 s6). -/
theorem complete_rederived {s : State} (h : s.free) (hb : s.clocked) (t : TimingImage)
    (ht : s.port.configured = true → s.cfg.timingCalc = some t) (rest : List MicroOp) :
    complete (s.withCsq (.running (.rederive :: rest))) = complete ((s.rederived t).withCsq (.running rest)) := by
  unfold State.rederived
  cases hc : s.port.configured with
  | false => rw [complete_rederive_unconfigured _ h hc]; rfl
  | true =>
    rw [complete_rederive _ h hc (ht hc)]
    show complete (s.withCsq (.running (.regShadow .ctrl 0xFFFF00FE (word t.clkval <<< 8)
      :: (([(.timv, t.timv), (.timh, t.timh), (.timsize, t.timsize), (.timpol, t.timpol),
        (.dither, t.dither)] : List (RegId × Word)).map (fun w => MicroOp.regShadow w.1 0 w.2) ++ rest)))) = _
    rw [complete_regWrite _ h hb, complete_writes_wired (State.free_regWrite h _ _) (State.clocked_regWrite hb _ _)]
    have e1 : s.composed .ctrl 0xFFFF00FE (word t.clkval <<< 8)
        = (s.shadow.ctrl &&& 0xFFFF00FE#32) ||| (word t.clkval <<< 8) := rfl
    rw [e1, if_pos rfl]
    unfold timingList
    rw [State.writeAll_cons]
    simp only [List.map_cons, List.map_nil, RegId.wired_timv, RegId.wired_timh, RegId.wired_timsize,
      RegId.wired_timpol, RegId.wired_dither]

/-- RESM's fail path (rule R237). -/
theorem complete_resumeFail {s : State} (h : s.free) :
    complete (s.withCsq (.running resumeFailSteps)) = s.resumeGivenUp := by
  show complete (s.withCsq (.running (.gateFailed :: .resumeFailed :: []))) = _
  rw [complete_gateFailed _ h, complete_resumeFailed]
  · rfl
  · exact h

end Sys2Proof.Machine
end

