-- ==== Sys2Proof/Laws/Interleaving.lean ====
section
/-! SUPPORT. What holds between any two micro-steps, whatever the interleaving: the mask depth, SHADOW = REG outside a
`RegWrite`, and the power state beside its clock bits; one lemma for the steps of each agent and one for every choice. -/

namespace Sys2Proof.Machine

/-- The micro-steps of a command's body that move neither the mask nor the power state
    (rules R40, R157, R184, R187). -/
def MicroOp.inBody : MicroOp → Bool
  | .zeroFill _ _ => true
  | .requestFlush _ => true
  | op => op.calm

/-- The last micro-steps of the commands other than SUSP and RESM. -/
def MicroOp.endsCommand : MicroOp → Bool
  | .commitTiming _ => true
  | .commitWindow _ _ => true
  | .commitPan _ _ _ => true
  | .commitEnable _ _ => true
  | .returnOk => true
  | _ => false

/-- What a command other than SUSP and RESM has left outside a `RegWrite`, `n` masks deep: body micro-steps, balanced
masks (rule R41) and the last micro-step. -/
inductive Body : Nat → List MicroOp → Prop
  | last {op : MicroOp} (h : op.endsCommand = true) : Body 0 [op]
  | enter {n : Nat} {ops : List MicroOp} (h : Body (n + 1) ops) : Body n (.maskEnter :: ops)
  | leave {n : Nat} {ops : List MicroOp} (h : Body n ops) : Body (n + 1) (.maskLeave :: ops)
  | calm {n : Nat} {op : MicroOp} {ops : List MicroOp} (hc : op.inBody = true) (h : Body n ops) : Body n (op :: ops)

/-- A list of the kind `P`, perhaps with the rest of one `RegWrite` in front, which is one mask deeper (rule R40). -/
inductive Within (sh : EngineRegs) (P : Nat → List MicroOp → Prop) : Nat → List MicroOp → Prop
  | out {n ops} (h : P n ops) : Within sh P n ops
  | w2 {n ops r v} (hv : sh.get r = v) (h : P n ops) : Within sh P (n + 1) (.regHardware r v :: .regUnmask :: ops)
  | w3 {n ops} (h : P n ops) : Within sh P (n + 1) (.regUnmask :: ops)

/-- With no mask there is no `RegWrite` in front. -/
theorem Within.zero {sh sh' : EngineRegs} {P} {ops} (h : Within sh P 0 ops) : Within sh' P 0 ops := by
  cases h with | out h => exact .out h

/-- Body micro-steps in front of a body make a body. -/
theorem Body.append {n ops} (h : Body n ops) : ∀ l : List MicroOp, (∀ op ∈ l, op.inBody = true) → Body n (l ++ ops)
  | [], _ => h
  | op :: l, hl => .calm (hl op (by simp)) (Body.append h l fun o ho => hl o (by simp [ho]))

/-- The sequencer stands between w1 and w2 of its `RegWrite` of `r` (rule R40). -/
def State.sequencerWrites (s : State) (r : RegId) : Prop := ∃ v ops, s.port.csq = .running (.regHardware r v :: ops)

/-- SHADOW[r] = REG[r], or an agent is writing `r` (rule R40). -/
def State.Mirrored (s : State) (r : RegId) : Prop := s.shadow.get r = s.engine.regs.get r ∨ s.handlerWrites r
    ∨ s.sequencerWrites r

/-- Every shadowed register is mirrored. -/
def State.AllMirrored (s : State) : Prop := ∀ r ∈ shadowIds, s.Mirrored r

/-- Both clocks on (rule R231). -/
def Power.clocksOn (p : Power) : Prop := p.busclkOn = true ∧ p.pixclkOn = true

/-- Both clocks off (rule R231). -/
def Power.clocksOff (p : Power) : Prop := p.busclkOn = false ∧ p.pixclkOn = false

/-- SNAPSHOT is there (rule R53). -/
def Power.snapshotHeld (p : Power) : Prop := p.snapshot.isSome = true

/-- Active with the clocks on and the registers mirrored, or Suspended with the clocks off and a snapshot
    (rule R231). -/
def State.Settled (s : State) : Prop :=
  (s.power.pstate = .active ∧ s.power.clocksOn ∧ s.AllMirrored) ∨ (s.power.pstate = .suspended ∧ s.power.clocksOff
      ∧ s.power.snapshotHeld)

/-- What RESM has left from s5 on: restores and the re-derivation, then s8 and s9 (rule R237). -/
def Restoring (n : Nat) (ops : List MicroOp) : Prop :=
  n = 0 ∧ ∃ front, ops = front ++ [.dropSnapshot, .enterActive] ∧ ∀ op ∈ front, (∃ r k b, op = .regShadow r k b)
      ∨ op = .rederive

/-- Every shadowed register is mirrored or still to be written by the list. -/
def State.Covered (s : State) (ops : List MicroOp) : Prop :=
  ∀ r ∈ shadowIds, s.Mirrored r ∨ ∃ k b, .regShadow r k b ∈ ops

/-- Where a command stands: between commands, in a command other than SUSP and RESM, or in SUSP or RESM by micro-step
(rules R230 to R243). -/
inductive Phase (s : State) : Nat → Csq → Prop
  | idle (h : s.Settled) : Phase s 0 .idle
  | accepted (h : s.Settled) : Phase s 0 .accepted
  | plain {n ops} (h : s.Settled) (hm : Within s.shadow Body n ops) : Phase s n (.running ops)
  | susp0 (h : s.power.pstate = .active) (ho : s.power.clocksOn) (hm : s.AllMirrored) : Phase s 0 (.running suspSteps)
  | susp1 (h : s.power.pstate = .suspending) (ho : s.power.clocksOn) : Phase s 0 (.running [.capture, .idlePins,
      .startSettle, .gateWhenSettled, .enterSuspended])
  | susp2 {ops} (h : s.power.pstate = .suspending) (ho : s.power.clocksOn) (hh : s.power.snapshotHeld)
      (hops : ops = [.idlePins, .startSettle, .gateWhenSettled, .enterSuspended]
          ∨ ops = [.startSettle, .gateWhenSettled, .enterSuspended] ∨ ops = [.gateWhenSettled, .enterSuspended]) :
              Phase s 0 (.running ops)
  | susp3 (h : s.power.pstate = .suspending) (ho : s.power.clocksOff) (hh : s.power.snapshotHeld) : Phase s 0
      (.running [.enterSuspended])
  | resm0 (h : s.power.pstate = .suspended) (ho : s.power.clocksOff) (hh : s.power.snapshotHeld) : Phase s 0
      (.running resmSteps)
  | resm1 {ops} (h : s.power.pstate = .resuming) (ho : s.power.clocksOff) (hh : s.power.snapshotHeld)
      (hops : ops = [.clocksOn, .retryClear, .pollReady] ∨ ops = [.resumeFailed]) : Phase s 0 (.running ops)
  | resm2 {ops} (h : s.power.pstate = .resuming) (ho : s.power.clocksOn) (hh : s.power.snapshotHeld)
      (hops : ops = [.retryClear, .pollReady] ∨ ops = [.pollReady] ∨ ops = resumeFailSteps) : Phase s 0 (.running ops)
  | resm3 {n ops} (h : s.power.pstate = .resuming) (ho : s.power.clocksOn) (hh : s.power.snapshotHeld)
      (hm : Within s.shadow Restoring n ops) (hc : s.Covered ops) : Phase s n (.running ops)
  | resm4 (h : s.power.pstate = .resuming) (ho : s.power.clocksOn) (hm : s.AllMirrored) : Phase s 0
      (.running [.enterActive])

/-- What holds between any two micro-steps of any interleaving: the mask depth is the sequencer's and the handler's
together, a running handler means the sequencer holds no mask and the clocks run, and the command is in a phase. -/
def State.Held (s : State) : Prop :=
  s.port.fault = none → ∃ n d, s.vsync.maskdepth = n + d ∧ s.vsync.handler.steady d s.shadow
    ∧ (s.vsync.handler ≠ .idle → n = 0 ∧ s.power.busclkOn = true) ∧ Phase s n s.port.csq

/-- The power fields that the phases look at are the same. -/
def SamePower (p q : Power) : Prop := q.pstate = p.pstate ∧ q.busclkOn = p.busclkOn ∧ q.pixclkOn = p.pixclkOn
    ∧ q.snapshot = p.snapshot

theorem SamePower.refl (p) : SamePower p p := ⟨rfl, rfl, rfl, rfl⟩

theorem SamePower.on {p q} (h : SamePower p q) (ho : p.clocksOn) : q.clocksOn := ⟨h.2.1.trans ho.1,
    h.2.2.1.trans ho.2⟩

theorem SamePower.off {p q} (h : SamePower p q) (ho : p.clocksOff) : q.clocksOff := ⟨h.2.1.trans ho.1,
    h.2.2.1.trans ho.2⟩

theorem SamePower.snapshotHeld {p q} (h : SamePower p q)
    (ho : p.snapshotHeld) : q.snapshotHeld := by unfold Power.snapshotHeld; rw [h.2.2.2]; exact ho

/-- A settled block stays so while the power state and the mirrored registers do. -/
theorem State.Settled.mono {s t : State} (h : s.Settled) (hp : SamePower s.power t.power)
    (hm : ∀ r ∈ shadowIds, s.Mirrored r → t.Mirrored r) : t.Settled := by
  rcases h with ⟨h1, h2, h3⟩ | ⟨h1, h2, h3⟩
  · exact .inl ⟨hp.1.trans h1, hp.on h2, fun r hr => hm r hr (h3 r hr)⟩
  · exact .inr ⟨hp.1.trans h1, hp.off h2, hp.snapshotHeld h3⟩

/-- A phase stays while the power state and the mirrored registers do, and, under a mask, the shadow. -/
theorem Phase.mono {s t : State} {n : Nat} {c : Csq} (h : Phase s n c) (hp : SamePower s.power t.power)
   (hm : ∀ r ∈ shadowIds, s.Mirrored r → t.Mirrored r) (hs : n ≠ 0 → t.shadow = s.shadow) : Phase t n c := by
  have hmid : ∀ {P ops}, Within s.shadow P n ops → Within t.shadow P n ops := by
    intro P ops h
    by_cases hn : n = 0
    · subst hn; exact h.zero
    · rw [hs hn]; exact h
  have hmir : s.AllMirrored → t.AllMirrored := fun h r hr => hm r hr (h r hr)
  cases h with
  | idle h => exact .idle (h.mono hp hm)
  | accepted h => exact .accepted (h.mono hp hm)
  | plain h hmi => exact .plain (h.mono hp hm) (hmid hmi)
  | susp0 h ho hmm => exact .susp0 (hp.1.trans h) (hp.on ho) (hmir hmm)
  | susp1 h ho => exact .susp1 (hp.1.trans h) (hp.on ho)
  | susp2 h ho hh hops => exact .susp2 (hp.1.trans h) (hp.on ho) (hp.snapshotHeld hh) hops
  | susp3 h ho hh => exact .susp3 (hp.1.trans h) (hp.off ho) (hp.snapshotHeld hh)
  | resm0 h ho hh => exact .resm0 (hp.1.trans h) (hp.off ho) (hp.snapshotHeld hh)
  | resm1 h ho hh hops => exact .resm1 (hp.1.trans h) (hp.off ho) (hp.snapshotHeld hh) hops
  | resm2 h ho hh hops => exact .resm2 (hp.1.trans h) (hp.on ho) (hp.snapshotHeld hh) hops
  | resm3 h ho hh hmi hc => exact .resm3 (hp.1.trans h) (hp.on ho) (hp.snapshotHeld hh) (hmid hmi) (fun r hr =>
      (hc r hr).imp (hm r hr) id)
  | resm4 h ho hmm => exact .resm4 (hp.1.trans h) (hp.on ho) (hmir hmm)

/-- Nothing a register's mirroring looks at has changed. -/
theorem Mirrored.mono {s t : State} (h1 : t.shadow = s.shadow) (h2 : t.engine.regs = s.engine.regs)
    (h3 : t.vsync.handler = s.vsync.handler) (h4 : t.port.csq = s.port.csq) (r)
        (h : s.Mirrored r) : t.Mirrored r := by
  unfold State.Mirrored State.handlerWrites State.sequencerWrites at *
  rw [h1, h2, h3, h4]; exact h

/-- A step that leaves what the phases look at keeps them. -/
theorem held_of_same {s t : State} (h : s.Held) (hf : t.port.fault = none → s.port.fault = none)
    (hp : SamePower s.power t.power)
   (h1 : t.shadow = s.shadow) (h2 : t.engine.regs = s.engine.regs) (h3 : t.vsync.handler = s.vsync.handler)
       (h4 : t.port.csq = s.port.csq) (h5 : t.vsync.maskdepth = s.vsync.maskdepth) : t.Held := by
  intro hft
  obtain ⟨n, d, a, b, c, e⟩ := h (hf hft)
  refine ⟨n, d, h5.trans a, by rw [h3, h1]; exact b, by rw [h3, hp.2.1]; exact c, ?_⟩
  rw [h4]; exact e.mono hp (fun r _ => Mirrored.mono h1 h2 h3 h4 r) (fun _ => h1)

/-- A faulted block holds no promise. -/
theorem held_of_fault {t : State} (h : t.port.fault ≠ none) : t.Held := fun h' => absurd h' h

/-- A body micro-step other than w1 faults, or moves neither registers nor mask and leads to body micro-steps. -/
theorem microStep_inBody (op : MicroOp) (s : State) (h : op.inBody = true) (hr : ∀ r k b, op ≠ .regShadow r k b) :
   (microStep op s).1.port.fault ≠ none ∧ (microStep op s).2 = .halt ∨
   ∃ first, (microStep op s).2 = .go first ∧ (∀ o ∈ first, o.inBody = true) ∧ (op.calm = true → ∀ o ∈ first,
       o.calm = true)
     ∧ (microStep op s).1.power = s.power ∧ (microStep op s).1.shadow = s.shadow ∧
       (microStep op s).1.engine.regs = s.engine.regs
     ∧ (microStep op s).1.vsync.maskdepth = s.vsync.maskdepth ∧ (microStep op s).1.vsync.handler = s.vsync.handler
     ∧ (microStep op s).1.port.csq = s.port.csq ∧ (microStep op s).1.port.fault = s.port.fault := by
  have hfl : ∀ i, ∀ o ∈ s.flushSteps i, o.calm = true := by
    intro i o ho
    simp only [State.flushSteps, List.mem_append, List.mem_map, List.mem_cons, List.not_mem_nil, or_false] at ho
    rcases ho with (rfl | ⟨e, _, rfl⟩) | rfl | rfl <;> rfl
  have hcalm : ∀ o : MicroOp, o.calm = true → o.inBody = true := by intro o; cases o <;> simp [MicroOp.calm,
      MicroOp.inBody]
  cases op with
  | regShadow r k b => exact absurd rfl (hr r k b)
  | palWrite i k v =>
    show (microPalWrite s i k v).1.port.fault ≠ none ∧ _ ∨ _
    by_cases hb : s.power.busclkOn
    · have : microStep (.palWrite i k v) s = (s.palWrite i k v, .go []) := if_pos hb
      right; rw [this]
      refine ⟨[], rfl, by simp, by simp, by simp, by simp, ?_, by simp, by simp, by simp, by simp⟩
      unfold State.palWrite; split <;> rfl
    · have : microStep (.palWrite i k v) s = (s.raise (0x1000 + 0x400 * i.val + 4 * k.val), .halt) := if_neg hb
      have h' : microPalWrite s i k v = (s.raise (0x1000 + 0x400 * i.val + 4 * k.val), .halt) := if_neg hb
      left; rw [this, h']; exact ⟨by simp [State.raise], rfl⟩
  | flushStart i =>
    right
    refine ⟨_, rfl, ?_, ?_, rfl, rfl, rfl, rfl, rfl, rfl, rfl⟩
    · intro o ho; split at ho
      · exact hcalm o (hfl i o ho)
      · simp at ho
    · intro _ o ho; split at ho
      · exact hfl i o ho
      · simp at ho
  | serveFlush i =>
    right
    refine ⟨_, rfl, ?_, ?_, rfl, rfl, rfl, rfl, rfl, rfl, rfl⟩
    · intro o ho; split at ho
      · simp at ho; rcases ho with rfl | rfl <;> rfl
      · simp at ho
    · intro _ o ho; split at ho
      · simp at ho; rcases ho with rfl | rfl <;> rfl
      · simp at ho
  | zeroFill a n =>
    right
    cases n with
    | zero => exact ⟨[], rfl, by simp, by simp, rfl, rfl, rfl, rfl, rfl, rfl, rfl⟩
    | succ n =>
      refine ⟨_, rfl, ?_, ?_, rfl, rfl, rfl, rfl, rfl, rfl, rfl⟩
      · intro o ho; split at ho <;> simp at ho; subst ho; rfl
      · intro hc; simp [MicroOp.calm] at hc
  | countVsync => exact .inr ⟨[], rfl, by simp, by simp, rfl, rfl, rfl, rfl, rfl, rfl, rfl⟩
  | wakeWaiters => exact .inr ⟨[], rfl, by simp, by simp, rfl, rfl, rfl, rfl, rfl, rfl, rfl⟩
  | clearRequest i => exact .inr ⟨[], rfl, by simp, by simp, rfl, rfl, rfl, rfl, rfl, rfl, rfl⟩
  | flushClear i => exact .inr ⟨[], rfl, by simp, by simp, rfl, rfl, rfl, rfl, rfl, rfl, rfl⟩
  | requestFlush i => exact .inr ⟨[], rfl, by simp, by simp, rfl, rfl, rfl, rfl, rfl, rfl, rfl⟩
  | _ => simp [MicroOp.inBody, MicroOp.calm] at h

/-! ### sequencer -/
/-- A register stays mirrored when its two values stay and the sequencer was not writing it. -/
theorem Mirrored.eq {s t : State} {r} (h1 : t.shadow.get r = s.shadow.get r)
    (h2 : t.engine.regs.get r = s.engine.regs.get r)
    (h3 : t.vsync.handler = s.vsync.handler) (hc : ¬ s.sequencerWrites r) (h : s.Mirrored r) : t.Mirrored r := by
  rcases h with h | ⟨v, ops, h⟩ | h
  · exact .inl (h1.trans (h.trans h2.symm))
  · exact .inr (.inl ⟨v, ops, h3.trans h⟩)
  · exact absurd h hc

theorem not_sequencerWrites {s : State} {op rest} (hq : s.port.csq = .running (op :: rest))
    (ho : ∀ r v, op ≠ .regHardware r v) (r) : ¬ s.sequencerWrites r := by
  rintro ⟨v, ops, h⟩; rw [hq] at h; cases h; exact ho r v rfl

/-- With the handler idle the depth and the phase are enough. -/
theorem held_of_sequencer {t : State} {n} (hi : t.vsync.handler = .idle) (hm : t.vsync.maskdepth = n)
    (hp : t.port.fault = none → Phase t n t.port.csq) : t.Held := by
  intro hf
  exact ⟨n, 0, hm, by rw [hi]; rfl, fun h => absurd hi h, hp hf⟩

theorem sequencerStep_regShadow (s : State) (r k b rest) : sequencerStep (.regShadow r k b) rest s =
    (s.writeShadow r (s.composed r k b)).withCsq (.running (.regHardware r (s.composed r k b) :: .regUnmask ::
        rest)) := rfl

theorem sequencerStep_regUnmask (s : State) (rest) : sequencerStep .regUnmask rest s = s.unmask.withCsq
    (.running rest) := rfl

theorem sequencerStep_regHardware_on {s : State} (h : s.power.busclkOn = true) (r v rest) : sequencerStep
    (.regHardware r v) rest s = (s.writeHardware r v).withCsq (.running rest) := by
  have : microStep (.regHardware r v) s = (s.writeHardware r v, .go []) := if_pos h
  unfold sequencerStep; rw [this]; rfl

theorem sequencerStep_regHardware_off {s : State} (h : s.power.busclkOn = false) (r v rest) : (sequencerStep
    (.regHardware r v) rest s).port.fault ≠ none := by
  have : microStep (.regHardware r v) s = (s.raise r.offset, .halt) := if_neg (by simp [h])
  unfold sequencerStep; rw [this]; simp [State.raise]

theorem mirrored_regShadow {s : State} {r k b rest} (hq : s.port.csq = .running (.regShadow r k b :: rest)) (q)
    (h : s.Mirrored q ∨ q = r) :
   (sequencerStep (.regShadow r k b) rest s).Mirrored q := by
  rw [sequencerStep_regShadow]
  by_cases hr : q = r
  · subst hr; exact .inr (.inr ⟨_, _, rfl⟩)
  · refine Mirrored.eq (s := s) ?_ (by rfl) (by rfl) (not_sequencerWrites hq (by simp) q) (h.resolve_right hr)
    exact EngineRegs.get_put_ne _ hr _

theorem mirrored_regHardware {s : State} {r v rest} (hq : s.port.csq = .running (.regHardware r v :: rest))
    (hv : s.shadow.get r = v) (hb : s.power.busclkOn = true) (q) (h : s.Mirrored q) :
   (sequencerStep (.regHardware r v) rest s).Mirrored q := by
  rw [sequencerStep_regHardware_on hb]
  by_cases hr : q = r
  · subst hr; refine .inl ?_
    show s.shadow.get q = (s.engine.writeReg q v).regs.get q
    rw [hv]; simp
  · rcases h with h | ⟨v, ops, h⟩ | ⟨v, ops, h⟩
    · refine .inl ?_
      show s.shadow.get q = (s.engine.writeReg r v).regs.get q
      rw [Engine.writeReg_regs, EngineRegs.get_put_ne _ hr]; exact h
    · exact .inr (.inl ⟨v, ops, h⟩)
    · rw [hq] at h; cases h; exact absurd rfl hr

theorem mirrored_same {s t : State} {op rest} (hq : s.port.csq = .running (op :: rest))
    (ho : ∀ r v, op ≠ .regHardware r v)
   (h1 : t.shadow = s.shadow) (h2 : t.engine.regs = s.engine.regs) (h3 : t.vsync.handler = s.vsync.handler) (q)
       (h : s.Mirrored q) : t.Mirrored q :=
  Mirrored.eq (by rw [h1]) (by rw [h2]) h3 (not_sequencerWrites hq ho q) h

/-- Every micro-step of a command other than SUSP and RESM keeps it. -/
theorem sequencerStep_body {s : State} {n op rest} (hi : s.vsync.handler = .idle) (hm : s.vsync.maskdepth = n)
   (hq : s.port.csq = .running (op :: rest)) (hs : s.Settled) (hp : Within s.shadow Body n (op :: rest)) :
       (sequencerStep op rest s).Held := by
  cases hp with
  | w2 hv h =>
    rename_i n r v ops
    rcases hb : s.power.busclkOn with _ | _
    · exact held_of_fault (sequencerStep_regHardware_off hb _ _ _)
    · have hok := fun q => mirrored_regHardware hq hv hb q
      rw [sequencerStep_regHardware_on hb] at hok ⊢
      exact held_of_sequencer hi hm fun _ => .plain (hs.mono (SamePower.refl _) fun q _ => hok q) (.w3 h)
  | w3 h =>
    rename_i n
    rw [sequencerStep_regUnmask]
    exact held_of_sequencer hi (by show s.vsync.maskdepth - 1 = n; omega) fun _ => .plain (hs.mono
        (SamePower.refl _) fun q _ => mirrored_same hq (by simp) (by rfl) (by rfl) (by rfl) q) (.out h)
  | out h =>
    cases h with
    | last h =>
      cases op <;> simp [MicroOp.endsCommand] at h <;>
      exact held_of_sequencer hi hm fun _ => .idle (hs.mono (SamePower.refl _) fun q _ => mirrored_same hq (by simp)
          (by rfl) (by rfl) (by rfl) q)
    | enter h =>
      exact held_of_sequencer hi (by show s.vsync.maskdepth + 1 = n + 1; omega) fun _ => .plain (hs.mono
          (SamePower.refl _) fun q _ => mirrored_same hq (by simp) (by rfl) (by rfl) (by rfl) q) (.out h)
    | leave h =>
      rename_i n
      exact held_of_sequencer hi (by show s.vsync.maskdepth - 1 = n; omega) fun _ => .plain (hs.mono
          (SamePower.refl _) fun q _ => mirrored_same hq (by simp) (by rfl) (by rfl) (by rfl) q) (.out h)
    | calm hc h =>
      by_cases hr : ∃ r k b, op = .regShadow r k b
      · obtain ⟨r, k, b, rfl⟩ := hr
        have hok := fun q => mirrored_regShadow hq q
        rw [sequencerStep_regShadow] at hok ⊢
        exact held_of_sequencer hi (by show s.vsync.maskdepth + 1 = n + 1; omega) fun _ =>
          .plain (hs.mono (SamePower.refl _) fun q _ h => hok q (.inl h)) (.w2 (EngineRegs.get_put_self _ _ _) h)
      · push Not at hr
        have hnr : ∀ r v, op ≠ .regHardware r v := by rintro r v rfl; simp [MicroOp.inBody, MicroOp.calm] at hc
        rcases microStep_inBody op s hc hr with ⟨hf, hh⟩ | ⟨first, hgo, hfc, _, h1, h2, h3, h4, h5, h6, h7⟩
        · refine held_of_fault ?_
          unfold sequencerStep
          rcases hms : microStep op s with ⟨u, f⟩
          rw [hms] at hf hh; cases hh; exact hf
        · unfold sequencerStep
          rcases hms : microStep op s with ⟨u, f⟩
          rw [hms] at hgo h1 h2 h3 h4 h5 h6 h7
          cases hgo
          exact held_of_sequencer (h5.trans hi) (h4.trans hm) fun _ => .plain (hs.mono
              (by show SamePower s.power u.power; rw [h1]; exact SamePower.refl _) fun q _ => mirrored_same
                  (t := u.withCsq (.running (first ++ rest))) hq hnr h2 h3 h5 q) (.out (h.append first hfc))

/-- RESM's restore covers every shadowed register (rules R233, R237). -/
theorem restoring_resumeSteps (snap : Option EngineRegs) (hs : snap.isSome = true) :
   Restoring 0 (resumeSteps snap) ∧ ∀ r ∈ shadowIds, ∃ k b, .regShadow r k b ∈ resumeSteps snap := by
  obtain ⟨e, rfl⟩ := Option.isSome_iff_exists.1 hs
  constructor
  · refine ⟨rfl, _, rfl, ?_⟩
    intro op ho
    simp only [List.mem_append, List.mem_flatMap, List.mem_cons, List.not_mem_nil, or_false] at ho
    rcases ho with (⟨w, _, hw⟩ | rfl) | hw
    · unfold restoreSteps at hw
      split at hw <;> · simp [regWriteSteps] at hw; exact .inl ⟨_, _, _, hw⟩
    · exact .inr rfl
    · simp [regUpdateSteps] at hw; exact .inl ⟨_, _, _, hw⟩
  · intro r hr
    by_cases hc : r = .ctrl
    · refine ⟨0, e.get r &&& ~~~0x00000001#32, ?_⟩
      unfold resumeSteps
      simp only [List.append_assoc]
      refine List.mem_append_left _ (List.mem_flatMap.2 ⟨(r, e.get r), List.mem_map.2 ⟨r, hr, rfl⟩, ?_⟩)
      unfold restoreSteps; rw [if_pos hc]; simp [regWriteSteps]
    · refine ⟨0, e.get r, ?_⟩
      unfold resumeSteps
      simp only [List.append_assoc]
      refine List.mem_append_left _ (List.mem_flatMap.2 ⟨(r, e.get r), List.mem_map.2 ⟨r, hr, rfl⟩, ?_⟩)
      unfold restoreSteps; rw [if_neg hc]; simp [regWriteSteps]

/-- Every micro-step of RESM's restore keeps it (rule R237). -/
theorem sequencerStep_restoring {s : State} {n op rest} (hi : s.vsync.handler = .idle) (hm : s.vsync.maskdepth = n)
   (hq : s.port.csq = .running (op :: rest)) (h : s.power.pstate = .resuming) (ho : s.power.clocksOn)
       (hh : s.power.snapshotHeld)
   (hp : Within s.shadow Restoring n (op :: rest)) (hc : s.Covered (op :: rest)) :
       (sequencerStep op rest s).Held := by
  cases hp with
  | w2 hv hr =>
    have hok := fun q => mirrored_regHardware hq hv ho.1 q
    rw [sequencerStep_regHardware_on ho.1] at hok ⊢
    refine held_of_sequencer hi hm fun _ => .resm3 h ho hh (.w3 hr) fun q hq' => (hc q hq').imp (hok q) ?_
    rintro ⟨k, b, hmem⟩; exact ⟨k, b, by simpa using hmem⟩
  | w3 hr =>
    rename_i n
    rw [sequencerStep_regUnmask]
    refine held_of_sequencer hi (by show s.vsync.maskdepth - 1 = n; omega) fun _ => .resm3 h ho hh
        (.out hr) fun q hq' => (hc q hq').imp (mirrored_same hq (by simp) (by rfl) (by rfl) (by rfl) q) ?_
    rintro ⟨k, b, hmem⟩; exact ⟨k, b, by simpa using hmem⟩
  | out hr =>
    obtain ⟨rfl, front, hf, hall⟩ := hr
    cases front with
    | nil =>
      simp at hf; obtain ⟨rfl, rfl⟩ := hf
      refine held_of_sequencer hi hm fun _ => .resm4 h ho fun q hq' => ?_
      exact mirrored_same (s := s) hq (by simp) (by rfl) (by rfl) (by rfl) q ((hc q hq').resolve_right
          (by rintro ⟨k, b, hmem⟩; simp at hmem))
    | cons o front =>
      simp at hf; obtain ⟨rfl, rfl⟩ := hf
      have hfr : Restoring 0 (front ++ [.dropSnapshot, .enterActive]) := ⟨rfl, front, rfl, fun o ho => hall o
          (by simp [ho])⟩
      rcases hall op (by simp) with ⟨r, k, b, rfl⟩ | rfl
      · have hok := fun q => mirrored_regShadow hq q
        rw [sequencerStep_regShadow] at hok ⊢
        refine held_of_sequencer hi (by show s.vsync.maskdepth + 1 = 0 + 1; omega) fun _ => .resm3 h ho hh (.w2
            (EngineRegs.get_put_self _ _ _) hfr) fun q hq' => ?_
        rcases hc q hq' with h' | ⟨k', b', hmem⟩
        · exact .inl (hok q (.inl h'))
        · rcases List.mem_cons.1 hmem with he | hmem
          · cases he; exact .inl (hok _ (.inr rfl))
          · exact .inr ⟨k', b', by simp at hmem ⊢; exact hmem⟩
      · have hcov : ∀ (f : List MicroOp) (t : State), (∀ q, s.Mirrored q → t.Mirrored q) → t.Covered (f ++
          (front ++ [.dropSnapshot, .enterActive])) := by
          intro f t ht q hq'
          refine (hc q hq').imp (ht q) ?_
          rintro ⟨k, b, hmem⟩; refine ⟨k, b, ?_⟩
          simp at hmem ⊢; exact .inr hmem
        rcases hconf : s.port.configured with _ | _
        rotate_left
        · cases hcalc : s.cfg.timingCalc with
          | none =>
            have hms : microStep .rederive s = (s, .jump resumeFailSteps) := by
              show microRederive s = _
              unfold microRederive; rw [hconf, hcalc]; rfl
            unfold sequencerStep; rw [hms]
            exact held_of_sequencer hi hm fun _ => .resm2 h ho hh (.inr (.inr rfl))
          | some t =>
            have hms : microStep .rederive s = (s, .go (timingWrites t 0xFFFF00FE)) := by
              show microRederive s = _
              unfold microRederive; rw [hconf, hcalc]; rfl
            unfold sequencerStep; rw [hms]
            refine held_of_sequencer hi hm fun _ => .resm3 h ho hh (.out ⟨rfl, timingWrites t 0xFFFF00FE ++ front,
                by simp, ?_⟩) (hcov _ _ ?_)
            · intro o ho
              rcases List.mem_append.1 ho with ho | ho
              · simp [timingWrites, regUpdateSteps, regWriteSteps] at ho
                rcases ho with rfl | rfl | rfl | rfl | rfl | rfl <;> exact .inl ⟨_, _, _, rfl⟩
              · exact hall o (by simp [ho])
            · exact fun q => mirrored_same (s := s) hq (by simp) (by rfl) (by rfl) (by rfl) q
        · have hms : microStep .rederive s = (s, .go []) := by
            show microRederive s = _
            unfold microRederive; rw [hconf]; rfl
          unfold sequencerStep; rw [hms]
          refine held_of_sequencer hi hm fun _ => .resm3 h ho hh (.out hfr) (hcov [] _ ?_)
          exact fun q => mirrored_same (s := s) hq (by simp) (by rfl) (by rfl) (by rfl) q

/-- Every micro-step of the sequencer keeps it. -/
theorem sequencerStep_held {s : State} {op rest} (hi : s.vsync.handler = .idle) (hf : s.port.fault = none)
    (h : s.Held)
   (hq : s.port.csq = .running (op :: rest)) : (sequencerStep op rest s).Held := by
  obtain ⟨n, d, hm, hst, _, hp⟩ := h hf
  rw [hi] at hst; have hd : d = 0 := hst
  subst hd
  simp at hm
  rw [hq] at hp
  generalize hops : Csq.running (op :: rest) = c at hp
  cases hp with
  | idle => cases hops
  | accepted => cases hops
  | plain hs hmid => cases hops; exact sequencerStep_body hi hm hq hs hmid
  | susp0 h' ho hmir => cases hops; exact held_of_sequencer hi hm fun _ => .susp1 rfl ho
  | susp1 h' ho => cases hops; exact held_of_sequencer hi hm fun _ => .susp2 h' ho rfl (.inl rfl)
  | susp2 h' ho hh hops' =>
    cases hops
    rcases hops' with hops' | hops' | hops'
    · cases hops'; exact held_of_sequencer hi hm fun _ => .susp2 h' ho hh (.inr (.inl rfl))
    · cases hops'; exact held_of_sequencer hi hm fun _ => .susp2 h' ho hh (.inr (.inr rfl))
    · cases hops'; exact held_of_sequencer hi hm fun _ => .susp3 h' ⟨rfl, rfl⟩ hh
  | susp3 h' ho hh => cases hops; exact held_of_sequencer hi hm fun _ => .idle (.inr ⟨rfl, ho, hh⟩)
  | resm0 h' ho hh => cases hops; exact held_of_sequencer hi hm fun _ => .resm1 rfl ho hh (.inl rfl)
  | resm1 h' ho hh hops' =>
    cases hops
    rcases hops' with hops' | hops'
    · cases hops'; exact held_of_sequencer hi hm fun _ => .resm2 h' ⟨rfl, rfl⟩ hh (.inl rfl)
    · cases hops'; exact held_of_sequencer hi hm fun _ => .idle (.inr ⟨rfl, ho, hh⟩)
  | resm2 h' ho hh hops' =>
    cases hops
    rcases hops' with hops' | hops' | hops'
    · cases hops'; exact held_of_sequencer hi hm fun _ => .resm2 h' ho hh (.inr (.inl rfl))
    · cases hops'
      rcases hr : s.env.domainReady with _ | _
      rotate_left
      · have hms : microStep .pollReady s = (s, .go (resumeSteps s.power.snapshot)) := if_pos hr
        unfold sequencerStep; rw [hms]
        obtain ⟨h1, h2⟩ := restoring_resumeSteps s.power.snapshot hh
        refine held_of_sequencer hi hm fun _ => .resm3 h' ho hh (.out (by simpa using h1)) fun r hr => .inr ?_
        obtain ⟨k, b, hmem⟩ := h2 r hr
        exact ⟨k, b, by simpa using hmem⟩
      · have hms : microStep .pollReady s = ({ s with power := { s.power with retry := s.power.retry + 1 } },
          if s.power.retry + 1 < Config.retryBudget then .go [.pollReady] else .jump resumeFailSteps) := if_neg
              (by simp [hr])
        unfold sequencerStep; rw [hms]
        split_ifs
        · exact held_of_sequencer hi hm fun _ => .resm2 h' ho hh (.inr (.inl rfl))
        · exact held_of_sequencer hi hm fun _ => .resm2 h' ho hh (.inr (.inr rfl))
    · cases hops'; exact held_of_sequencer hi hm fun _ => .resm1 h' ⟨rfl, rfl⟩ hh (.inr rfl)
  | resm3 h' ho hh hmid hc => cases hops; exact sequencerStep_restoring hi hm hq h' ho hh hmid hc
  | resm4 h' ho hmir =>
    cases hops
    exact held_of_sequencer hi hm fun _ => .idle (.inl ⟨rfl, ho, fun q hq' => mirrored_same (s := s) hq (by simp)
        (by rfl) (by rfl) (by rfl) q (hmir q hq')⟩)

/-- A register stays mirrored when its two values stay and the handler was not writing it. -/
theorem mirrored_of_handler {s t : State} {r} (h1 : t.shadow.get r = s.shadow.get r)
    (h2 : t.engine.regs.get r = s.engine.regs.get r)
    (h4 : t.port.csq = s.port.csq) (hc : ¬ s.handlerWrites r) (h : s.Mirrored r) : t.Mirrored r := by
  rcases h with h | h | ⟨v, ops, h⟩
  · exact .inl (h1.trans (h.trans h2.symm))
  · exact absurd h hc
  · exact .inr (.inr ⟨v, ops, h4.trans h⟩)

theorem not_handlerWrites {s : State} {op rest} (hq : s.vsync.handler = .running (op :: rest))
    (ho : ∀ r v, op ≠ .regHardware r v) (r) : ¬ s.handlerWrites r := by
  rintro ⟨v, ops, h⟩; rw [hq] at h; cases h; exact ho r v rfl

/-- After a step of the handler: the handler's own form and the mirrored registers are enough. -/
theorem held_of_handler {s t : State} {d} (hp : Phase s 0 s.port.csq) (hpow : t.power = s.power)
    (hcsq : t.port.csq = s.port.csq)
   (hb : s.power.busclkOn = true) (hm : t.vsync.maskdepth = d) (hst : t.vsync.handler.steady d t.shadow)
   (hok : ∀ r ∈ shadowIds, s.Mirrored r → t.Mirrored r) : t.Held := by
  intro _
  refine ⟨0, d, by omega, hst, fun _ => ⟨rfl, by rw [hpow]; exact hb⟩, ?_⟩
  rw [hcsq]
  exact hp.mono (by rw [hpow]; exact SamePower.refl _) hok (fun h => absurd rfl h)

/-- Calm micro-steps in front of the rest of a handler run make one. -/
theorem restOfHandler_append {ops} (h : restOfHandler ops) (l : List MicroOp) (hl : ∀ o ∈ l, o.calm = true) :
    restOfHandler (l ++ ops) := by
  obtain ⟨f, rfl, hf⟩ := h
  exact ⟨l ++ f, by simp, by intro o ho; rcases List.mem_append.1 ho with h | h; exact hl o h; exact hf o h⟩

/-- The rest of a handler run outside a `RegWrite` is steady, unmasked. -/
theorem steady_restOfHandler {ops sh} (h : restOfHandler ops) : (Handler.running ops).steady 0 sh := by
  obtain ⟨f, rfl, hf⟩ := h
  unfold Handler.steady
  split
  · rename_i heq; cases heq
  · rename_i heq; injection heq with heq
    cases f with
    | nil => simp at heq
    | cons o f => simp at heq; have := hf o (by simp); rw [heq.1] at this; simp [MicroOp.calm] at this
  · rename_i heq; injection heq with heq
    cases f with
    | nil => simp at heq
    | cons o f => simp at heq; have := hf o (by simp); rw [heq.1] at this; simp [MicroOp.calm] at this
  · rename_i heq; injection heq with heq; subst heq; exact ⟨rfl, f, rfl, hf⟩

theorem handlerStep_regShadow (s : State) (r k b rest) : handlerStep (.regShadow r k b) rest s = (s.writeShadow r
    (s.composed r k b)).withHandler (.running (.regHardware r (s.composed r k b) :: .regUnmask :: rest)) := rfl

theorem handlerStep_regHardware {s : State} (h : s.power.busclkOn = true) (r v rest) : handlerStep
    (.regHardware r v) rest s = (s.writeHardware r v).withHandler (.running rest) := by
  have : microStep (.regHardware r v) s = (s.writeHardware r v, .go []) := if_pos h
  unfold handlerStep; rw [this]; rfl

/-- Every micro-step of the handler keeps it (rule R262). -/
theorem handlerStep_held {s : State} {op rest} (hf : s.port.fault = none) (h : s.Held)
    (hq : s.vsync.handler = .running (op :: rest)) :
   (handlerStep op rest s).Held := by
  obtain ⟨n, d, hm, hst, hn, hp⟩ := h hf
  obtain ⟨rfl, hb⟩ := hn (by rw [hq]; simp)
  simp at hm
  rw [hq] at hst
  unfold Handler.steady at hst
  split at hst
  · rename_i heq; cases heq
  · rename_i r v ops heq; cases heq
    obtain ⟨hd, hv, hr⟩ := hst
    rw [handlerStep_regHardware hb]
    refine held_of_handler hp rfl rfl hb (d := 1) (by rw [← hd]; exact hm) ⟨rfl, hr⟩ ?_
    intro q _ hok
    by_cases hqr : q = r
    · subst hqr; refine .inl ?_
      show s.shadow.get q = (s.engine.writeReg q v).regs.get q
      rw [hv]; simp
    · rcases hok with h | ⟨v, ops, h⟩ | h
      · refine .inl ?_
        show s.shadow.get q = (s.engine.writeReg r v).regs.get q
        rw [Engine.writeReg_regs, EngineRegs.get_put_ne _ hqr]; exact h
      · rw [hq] at h; cases h; exact absurd rfl hqr
      · exact .inr (.inr h)
  · rename_i ops heq; cases heq
    obtain ⟨hd, hr⟩ := hst
    refine held_of_handler (t := s.unmask.withHandler (.running rest)) hp rfl rfl hb (d := 0)
        (by show s.vsync.maskdepth - 1 = 0; omega) (steady_restOfHandler hr) ?_
    exact fun q _ => mirrored_of_handler (s := s) (by rfl) (by rfl) (by rfl) (not_handlerWrites hq (by simp) q)
  · rename_i ops _ _ heq; cases heq
    obtain ⟨rfl, front, hfr, hall⟩ := hst
    cases front with
    | nil =>
      simp at hfr; obtain ⟨rfl, rfl⟩ := hfr
      refine held_of_handler (t := s.handlerLeave) hp rfl rfl hb hm (by exact rfl) ?_
      exact fun q _ => mirrored_of_handler (s := s) (by rfl) (by rfl) (by rfl) (not_handlerWrites hq (by simp) q)
    | cons o front =>
      simp at hfr; obtain ⟨rfl, rfl⟩ := hfr
      have hc : op.calm = true := hall op (by simp)
      have hrest : restOfHandler (front ++ [.handlerReturn]) := ⟨front, rfl, fun o ho => hall o (by simp [ho])⟩
      have hsc : op.inBody = true := by cases op <;> simp_all [MicroOp.inBody, MicroOp.calm]
      by_cases hr : ∃ r k b, op = .regShadow r k b
      · obtain ⟨r, k, b, rfl⟩ := hr
        rw [handlerStep_regShadow]
        refine held_of_handler hp rfl rfl hb (d := 1) (by show s.vsync.maskdepth + 1 = 1; omega) ⟨rfl,
            EngineRegs.get_put_self _ _ _, hrest⟩ ?_
        intro q _ hok
        by_cases hqr : q = r
        · subst hqr; exact .inr (.inl ⟨_, _, rfl⟩)
        · exact mirrored_of_handler (s := s) (by exact EngineRegs.get_put_ne _ hqr _) (by rfl) (by rfl)
            (not_handlerWrites hq (by simp) q) hok
      · push Not at hr
        have hnr : ∀ r v, op ≠ .regHardware r v := by rintro r v rfl; simp [MicroOp.calm] at hc
        rcases microStep_inBody op s hsc hr with ⟨hf', hh⟩ | ⟨first, hgo, _, hfc, h1, h2, h3, h4, h5, h6, h7⟩
        · refine held_of_fault ?_
          unfold handlerStep
          rcases hms : microStep op s with ⟨u, f⟩
          rw [hms] at hf' hh; cases hh; exact hf'
        · unfold handlerStep
          rcases hms : microStep op s with ⟨u, f⟩
          rw [hms] at hgo h1 h2 h3 h4 h5 h6 h7
          cases hgo
          refine held_of_handler (t := u.withHandler (.running (first ++ (front ++ [.handlerReturn])))) hp h1 h6 hb
              (h4.trans hm) (steady_restOfHandler (restOfHandler_append hrest first (hfc hc))) ?_
          exact fun q _ => mirrored_of_handler (s := s) (by show u.shadow.get q = _; rw [h2])
              (by show u.engine.regs.get q = _; rw [h3]) h6 (not_handlerWrites hq hnr q)

/-- Reset gives it (rule R280). -/
theorem resetStep_held (s : State) : s.resetStep.Held :=
  held_of_sequencer rfl rfl fun _ => .idle (.inl ⟨rfl, ⟨rfl, rfl⟩, fun _ _ => .inl rfl⟩)

/-- The sequencer's turn: nothing, or one micro-step with the handler idle and no fault (rule R263). -/
theorem sequencerTurn_cases (s : State) : sequencerTurn s = s ∨ ∃ op rest, s.port.csq = .running (op :: rest)
    ∧ s.vsync.handler = .idle ∧ s.port.fault = none ∧ sequencerTurn s = sequencerStep op rest s := by
  unfold sequencerTurn
  split
  · rename_i op rest hq
    split
    · rename_i hc
      right
      simp [State.sequencerFree, State.faulted, State.handlerRunning] at hc
      refine ⟨op, rest, hq, ?_, ?_, rfl⟩
      · cases hh : s.vsync.handler with
        | idle => rfl
        | running l => rw [hh] at hc; simp at hc
      · cases hh : s.port.fault with
        | none => rfl
        | some l => rw [hh] at hc; simp at hc
    · exact .inl rfl
  · exact .inl rfl

theorem raise_faulted (s : State) (o) : (s.raise o).port.fault ≠ none := by simp [State.raise]

/-- A host read that has a step raises the fault or emits a value (rule R78). -/
theorem hostRead_cases {s t : State} {w o} (h : s.hostRead w o = .next t) : t.port.fault ≠ none
    ∨ ∃ x, t = s.emit x := by
  unfold State.hostRead at h
  split at h
  · split at h
    · split at h
      · cases h
      · split at h <;> cases h
        · exact .inr ⟨_, rfl⟩
        · exact .inl (raise_faulted _ _)
    · cases h; exact .inr ⟨_, rfl⟩
  · cases h

/-- A host write that has a step raises the fault, or leaves all but the port and the configuration, and CSQ at most
accepts (rules R79, R101). -/
theorem hostWrite_cases {s t : State} {w o v} (h : s.hostWrite w o v = .next t) : t.port.fault ≠ none ∨
    (t.port.fault = s.port.fault ∧ t.power = s.power ∧ t.shadow = s.shadow ∧ t.engine = s.engine ∧ t.vsync = s.vsync
        ∧ (t.port.csq = s.port.csq ∨ s.port.csq = .idle ∧ t.port.csq = .accepted)) := by
  unfold State.hostWrite at h
  split at h
  · split at h
    · split at h
      · cases h
      · split at h <;> cases h
        · exact .inr ⟨rfl, rfl, rfl, rfl, rfl, .inl rfl⟩
        · exact .inl (raise_faulted _ _)
    · split at h
      · cases h
      · cases h
        have hd : ∀ w, (s.doorbell w).port.fault = s.port.fault ∧ (s.doorbell w).power = s.power ∧
            (s.doorbell w).shadow = s.shadow ∧ (s.doorbell w).engine = s.engine ∧ (s.doorbell w).vsync = s.vsync ∧
                ((s.doorbell w).port.csq = s.port.csq ∨ s.port.csq = .idle ∧
                    (s.doorbell w).port.csq = .accepted) := by
          intro w
          unfold State.doorbell
          split
          · exact ⟨rfl, rfl, rfl, rfl, rfl, .inl rfl⟩
          · rename_i hb
            refine ⟨rfl, rfl, rfl, rfl, rfl, .inr ⟨?_, rfl⟩⟩
            simp [State.busy] at hb
            cases hq : s.port.csq <;> simp [hq, Csq.busy] at hb ⊢
        right
        unfold State.writePort
        split
        · split
          · exact ⟨rfl, rfl, rfl, rfl, rfl, .inl rfl⟩
          · exact hd v
          · split
            · exact ⟨rfl, rfl, rfl, rfl, rfl, .inl rfl⟩
            · unfold State.writeControl
              split
              · exact hd v
              · exact ⟨rfl, rfl, rfl, rfl, rfl, .inl rfl⟩
              · exact ⟨rfl, rfl, rfl, rfl, rfl, .inl rfl⟩
              · split <;> exact ⟨rfl, rfl, rfl, rfl, rfl, .inl rfl⟩
        · exact ⟨rfl, rfl, rfl, rfl, rfl, .inl rfl⟩
  · cases h

/-- A scan-out step leaves the port, the power state, the shadow, the registers and the vsync unit (rule R209). -/
theorem scanTurn_cases (s : State) : (scanTurn s).port = s.port ∧ (scanTurn s).power = s.power ∧
    (scanTurn s).shadow = s.shadow ∧ (scanTurn s).engine.regs = s.engine.regs ∧ (scanTurn s).vsync = s.vsync := by
  unfold scanTurn
  split
  · exact ⟨rfl, rfl, rfl, rfl, rfl⟩
  · split
    · unfold State.scanPixel; exact ⟨rfl, rfl, rfl, rfl, rfl⟩
    · exact ⟨rfl, rfl, rfl, rfl, rfl⟩

/-- A step that leaves the port too keeps it. -/
theorem held_of_samePort {s t : State} (h : s.Held) (h0 : t.port = s.port) (h1 : t.power = s.power)
    (h2 : t.shadow = s.shadow) (h3 : t.engine.regs = s.engine.regs)
   (h4 : t.vsync.handler = s.vsync.handler) (h5 : t.vsync.maskdepth = s.vsync.maskdepth) : t.Held :=
  held_of_same h (by rw [h0]; exact id) (by rw [h1]; exact SamePower.refl _) h2 h3 h4 (by rw [h0]) h5

/-- Every choice of every agent, the host and the platform keeps it. -/
theorem eventStep_held {e : Event} {s t : State} (h : s.Held) (he : eventStep e s = .next t) : t.Held := by
  cases e with
  | sequencer =>
    cases he
    rcases sequencerTurn_cases s with h' | ⟨op, rest, hq, hi, hf, h'⟩
    · rw [h']; exact h
    · rw [h']; exact sequencerStep_held hi hf h hq
  | handler =>
    cases he
    unfold handlerTurn
    split
    · exact h
    · rename_i hf
      have hf : s.port.fault = none := by
        cases hh : s.port.fault with
        | none => rfl
        | some l => simp [State.faulted, hh] at hf
      split
      · rename_i hi
        split
        · rename_i hme
          simp only [State.handlerMayEnter, Bool.and_eq_true, decide_eq_true_eq] at hme
          obtain ⟨n, d, hm, hst, hn, hp⟩ := h hf
          have hz : n = 0 ∧ d = 0 := by omega
          obtain ⟨rfl, rfl⟩ := hz
          refine held_of_handler hp rfl rfl hme.2 (d := 0) hm (steady_restOfHandler ⟨[.countVsync, .wakeWaiters] ++
              (List.finRange Config.nwin).map MicroOp.serveFlush, rfl, ?_⟩) ?_
          · intro o ho
            simp at ho
            rcases ho with rfl | rfl | ⟨i, rfl⟩ <;> rfl
          · exact fun q _ => mirrored_of_handler (s := s) (by rfl) (by rfl) (by rfl)
              (by rintro ⟨v, ops, h⟩; rw [hi] at h; cases h)
        · exact h
      · exact h
      · rename_i hq; exact handlerStep_held hf h hq
  | frameStart =>
    cases he; unfold frameTurn; split
    · exact held_of_samePort h rfl rfl rfl rfl rfl rfl
    · exact h
  | scanOut =>
    cases he; obtain ⟨a, b, c, d, e⟩ := scanTurn_cases s; exact held_of_samePort h a b c d (by rw [e]) (by rw [e])
  | tick =>
    cases he; unfold tickTurn; split
    · exact h
    · exact held_of_same h id ⟨rfl, rfl, rfl, rfl⟩ rfl rfl rfl rfl rfl
  | hostRead w o =>
    rcases hostRead_cases he with h' | ⟨x, rfl⟩
    · exact held_of_fault h'
    · exact held_of_samePort h rfl rfl rfl rfl rfl rfl
  | hostWrite w o v =>
    rcases hostWrite_cases he with h' | ⟨h0, h1, h2, h3, h4, h5 | ⟨h5, h6⟩⟩
    · exact held_of_fault h'
    · exact held_of_same h (by rw [h0]; exact id) (by rw [h1]; exact SamePower.refl _) h2 (by rw [h3])
        (by rw [h4]) h5 (by rw [h4])
    · intro hft
      obtain ⟨n, d, hm, hst, hn, hp⟩ := h (by rw [← h0]; exact hft)
      refine ⟨n, d, by rw [h4]; exact hm, by rw [h4, h2]; exact hst, by rw [h4, h1]; exact hn, ?_⟩
      rw [h5] at hp; rw [h6]
      cases hp with
      | idle hs =>
        refine .accepted (hs.mono (by rw [h1]; exact SamePower.refl _) fun q _ hok => ?_)
        rcases hok with hok | ⟨v, ops, hok⟩ | ⟨v, ops, hok⟩
        · exact .inl (by rw [h2, h3]; exact hok)
        · exact .inr (.inl ⟨v, ops, by rw [h4]; exact hok⟩)
        · rw [h5] at hok; cases hok
  | memRead a => cases he; exact held_of_samePort h rfl rfl rfl rfl rfl rfl
  | memWrite u v => cases he; exact held_of_samePort h rfl rfl rfl rfl rfl rfl
  | domainReady l => cases he; exact held_of_samePort h rfl rfl rfl rfl rfl rfl
  | reset => cases he; exact resetStep_held s

/-- So does every step that `complete` takes, -/
theorem autoStep_held {s t : State} (h : s.Held) (ha : autoStep s = some t) : t.Held := by
  unfold autoStep at ha
  split at ha
  · cases ha
  · rename_i hf
    have hf : s.port.fault = none := by
      cases hh : s.port.fault with
      | none => rfl
      | some l => simp [State.faulted, hh] at hf
    split at ha
    · rename_i hq; cases ha; exact handlerStep_held hf h hq
    · cases ha
    · rename_i hi
      split at ha
      · rename_i hq; cases ha
        split
        · exact held_of_same h id ⟨rfl, rfl, rfl, rfl⟩ rfl rfl rfl rfl rfl
        · exact sequencerStep_held hi hf h hq
      · cases ha

/-- any number of them, -/
theorem settleDown_held (n : Nat) : ∀ s : State, s.Held → (settleDown n s).Held := by
  induction n with
  | zero => exact fun s h => h
  | succ n ih =>
    intro s h
    show State.Held (match autoStep s with | none => s | some s' => settleDown n s')
    split
    · exact h
    · rename_i s' ha; exact ih s' (autoStep_held h ha)

/-- and `complete` itself. -/
theorem complete_held {s : State} (h : s.Held) : (complete s).Held := settleDown_held _ s h

/-! ### No interrupt is pending while output is off (rules R143, R222, log entry 29) -/

theorem Engine.pendingOn_writeReg {e : Engine} (h : e.pendingOn) (r : RegId) (v : Word) : (e.writeReg r v).pendingOn := by
  intro hp
  rw [Engine.writeReg_intpend] at hp
  rw [Engine.writeReg_regs]
  simp only [Bool.and_eq_true, Bool.or_eq_true, Bool.not_eq_true'] at hp
  rcases hp.2 with h' | h'
  · exact h'
  · have h1 : e.regs.outEn = true := h hp.1
    rw [h1] at h'; cases h'

/-- A micro-step leaves INTPEND alone, unless it gates the clocks or turns output off and so clears it. -/
theorem microStep_intpend (op : MicroOp) (s : State) : (microStep op s).1.engine.intpend = s.engine.intpend
    ∨ (microStep op s).1.engine.intpend = false ∧ ((microStep op s).1.power.busclkOn = false
      ∨ (s.engine.regs.outEn = true ∧ (microStep op s).1.engine.regs.outEn = false)) := by
  cases op
  case regHardware r v =>
    show (microRegHardware s r v).1.engine.intpend = _ ∨ (microRegHardware s r v).1.engine.intpend = false
      ∧ ((microRegHardware s r v).1.power.busclkOn = false
        ∨ (s.engine.regs.outEn = true ∧ (microRegHardware s r v).1.engine.regs.outEn = false))
    unfold microRegHardware
    split
    · show (s.engine.writeReg r v).intpend = _ ∨ (s.engine.writeReg r v).intpend = false
        ∧ (_ ∨ (_ ∧ (s.engine.writeReg r v).regs.outEn = false))
      rw [Engine.writeReg_intpend, Engine.writeReg_regs]
      cases s.engine.regs.outEn <;> cases (s.engine.regs.put r v).outEn <;> simp
    · exact .inl rfl
  case palWrite i k v =>
    left
    show (microPalWrite s i k v).1.engine.intpend = _
    unfold microPalWrite State.palWrite
    split
    · split <;> rfl
    · rfl
  case zeroFill a n => cases n <;> exact .inl rfl
  case pollReady =>
    left
    show (microPoll s).1.engine.intpend = _
    unfold microPoll; split <;> rfl
  case rederive =>
    left
    show (microRederive s).1.engine.intpend = _
    unfold microRederive; split
    · split <;> rfl
    · rfl
  case gateWhenSettled => exact .inr ⟨rfl, .inl rfl⟩
  case gateFailed => exact .inr ⟨rfl, .inl rfl⟩
  all_goals exact .inl rfl

/-- Every micro-step keeps it, whatever micro-steps are left. -/
theorem microStep_pendingOn (op : MicroOp) {s : State} (h : s.engine.pendingOn) : (microStep op s).1.engine.pendingOn := by
  cases op
  case regHardware r v =>
    show (microRegHardware s r v).1.engine.pendingOn
    unfold microRegHardware
    split
    · exact Engine.pendingOn_writeReg h r v
    · exact h
  case palWrite i k v =>
    show (microPalWrite s i k v).1.engine.pendingOn
    unfold microPalWrite State.palWrite
    split
    · split <;> exact h
    · exact h
  case zeroFill a n => cases n <;> exact h
  case pollReady =>
    show (microPoll s).1.engine.pendingOn
    unfold microPoll; split <;> exact h
  case rederive =>
    show (microRederive s).1.engine.pendingOn
    unfold microRederive; split
    · split <;> exact h
    · exact h
  case gateWhenSettled => exact fun hp => by cases hp
  case gateFailed => exact fun hp => by cases hp
  all_goals exact h

theorem sequencerStep_pendingOn (op rest) {s : State} (h : s.engine.pendingOn) :
    (sequencerStep op rest s).engine.pendingOn := by
  have hm := microStep_pendingOn op h
  unfold sequencerStep
  generalize microStep op s = p at hm ⊢
  rcases p with ⟨u, _ | _ | _ | _⟩ <;> exact hm

theorem handlerStep_pendingOn (op rest) {s : State} (h : s.engine.pendingOn) :
    (handlerStep op rest s).engine.pendingOn := by
  have hm := microStep_pendingOn op h
  unfold handlerStep
  generalize microStep op s = p at hm ⊢
  rcases p with ⟨u, _ | _ | _ | _⟩ <;> exact hm

theorem hostRead_engine {s t : State} {w o} (h : s.hostRead w o = .next t) : t.engine = s.engine := by
  unfold State.hostRead at h
  (repeat' split at h) <;> cases h <;> rfl

theorem State.writePort_engine (s : State) (o v) : (s.writePort o v).engine = s.engine := by
  unfold State.writePort State.writeControl State.doorbell
  repeat' split
  all_goals rfl

theorem hostWrite_engine {s t : State} {w o v} (h : s.hostWrite w o v = .next t) : t.engine = s.engine := by
  unfold State.hostWrite at h
  (repeat' split at h) <;> cases h <;> first | rfl | exact State.writePort_engine s o v

/-- So does every choice of every agent, -/
theorem eventStep_pendingOn {e : Event} {s t : State} (h : s.engine.pendingOn) (he : eventStep e s = .next t) :
    t.engine.pendingOn := by
  cases e with
  | sequencer =>
    cases he
    rcases sequencerTurn_cases s with h' | ⟨op, rest, -, -, -, h'⟩ <;> rw [h']
    · exact h
    · exact sequencerStep_pendingOn op rest h
  | handler =>
    cases he
    unfold handlerTurn
    split
    · exact h
    · split
      · split
        · exact fun hp => by cases hp
        · exact h
      · exact h
      · exact handlerStep_pendingOn _ _ h
  | frameStart =>
    cases he; unfold frameTurn; split
    · rename_i hc
      simp only [State.frameMayStart, Bool.and_eq_true] at hc
      exact fun _ => hc.2.1.1.1
    · exact h
  | scanOut => cases he; unfold scanTurn; split; exact h; split <;> exact h
  | tick => cases he; unfold tickTurn; split <;> exact h
  | hostRead w o => rw [Engine.pendingOn, hostRead_engine he]; exact h
  | hostWrite w o v => rw [Engine.pendingOn, hostWrite_engine he]; exact h
  | memRead a => cases he; exact h
  | memWrite u v => cases he; exact h
  | domainReady l => cases he; exact h
  | reset => cases he; exact fun hp => by cases hp

/-- and every step that `complete` takes. -/
theorem autoStep_pendingOn {s t : State} (h : s.engine.pendingOn) (ha : autoStep s = some t) : t.engine.pendingOn := by
  unfold autoStep at ha
  split at ha
  · cases ha
  · split at ha
    · cases ha; exact handlerStep_pendingOn _ _ h
    · cases ha
    · split at ha
      · cases ha; split
        · exact h
        · exact sequencerStep_pendingOn _ _ h
      · cases ha

theorem settleDown_pendingOn (n : Nat) : ∀ s : State, s.engine.pendingOn → (settleDown n s).engine.pendingOn := by
  induction n with
  | zero => exact fun s h => h
  | succ n ih =>
    intro s h
    show (match autoStep s with | none => s | some s' => settleDown n s').engine.pendingOn
    split
    · exact h
    · rename_i s' ha; exact ih s' (autoStep_pendingOn h ha)

theorem complete_pendingOn {s : State} (h : s.engine.pendingOn) : (complete s).engine.pendingOn :=
  settleDown_pendingOn _ s h

/-- A command with the choices between its micro-steps keeps it. -/
theorem runScheduled_pendingOn (es : List Event) :
    ∀ s t : State, s.engine.pendingOn → runScheduled es s = .next t → t.engine.pendingOn := by
  induction es with
  | nil => intro s t h hr; cases hr; exact complete_pendingOn h
  | cons e es ih =>
    intro s t h hr
    unfold runScheduled at hr
    split at hr
    · split at hr
      · rename_i u he; exact ih u t (eventStep_pendingOn (by exact h) he) hr
      · cases hr
      · cases hr
    · cases hr; exact h

end Sys2Proof.Machine
end

