-- ==== Sys2Proof/Laws/Memory.lean ====
section
/-! SUPPORT. Frame-buffer memory: every operation keeps the canonical form, a read after a write gives the byte
written, a write leaves every other byte alone. -/

namespace Sys2Proof.Machine

/-! ### Stored bytes -/

@[simp] theorem Memory.lookup_insert_self (m : Memory) (a : Nat) (b : Byte) :
    Memory.lookup (Memory.insert m a b) a = some b := by
  induction m with
  | nil => simp [Memory.insert, Memory.lookup]
  | cons c m ih =>
    obtain ⟨a', b'⟩ := c
    simp only [Memory.insert]
    split
    · simp [Memory.lookup]
    · split
      · simp [Memory.lookup]
      · rename_i h
        simp [Memory.lookup, h, ih]

theorem Memory.lookup_insert_ne (m : Memory) {a x : Nat} (h : x ≠ a) (b : Byte) :
    Memory.lookup (Memory.insert m a b) x = Memory.lookup m x := by
  induction m with
  | nil => simp [Memory.insert, Memory.lookup, h]
  | cons c m ih =>
    obtain ⟨a', b'⟩ := c
    simp only [Memory.insert]
    split
    · simp [Memory.lookup, h]
    · split
      · rename_i ha
        subst ha
        simp [Memory.lookup, h]
      · simp [Memory.lookup, ih]

theorem Memory.read_write_self (m : Memory) (a : Nat) (b : Byte) : (Memory.write m a b).read a = b := by
  simp [Memory.read, Memory.write]

theorem Memory.read_write_ne (m : Memory) {a x : Nat} (h : x % Config.memorySize ≠ a % Config.memorySize) (b : Byte) :
    (Memory.write m a b).read x = m.read x := by
  simp [Memory.read, Memory.write, Memory.lookup_insert_ne _ h]

/-! ### The canonical form -/

theorem Memory.risingFrom_mono {lo lo' : Nat} (m : Memory) (hle : lo' ≤ lo) (h : Memory.risingFrom lo m = true) :
    Memory.risingFrom lo' m = true := by
  cases m with
  | nil => rfl
  | cons c m =>
    obtain ⟨a, b⟩ := c
    simp only [Memory.risingFrom, Bool.and_eq_true, decide_eq_true_eq] at h ⊢
    exact ⟨⟨le_trans hle h.1.1, h.1.2⟩, h.2⟩

theorem Memory.risingFrom_insert (m : Memory) {lo a : Nat} (b : Byte) (hlo : lo ≤ a) (ha : a < Config.memorySize)
    (h : Memory.risingFrom lo m = true) : Memory.risingFrom lo (Memory.insert m a b) = true := by
  induction m generalizing lo with
  | nil => simp [Memory.insert, Memory.risingFrom, hlo, ha]
  | cons c m ih =>
    obtain ⟨a', b'⟩ := c
    simp only [Memory.risingFrom, Bool.and_eq_true, decide_eq_true_eq] at h
    simp only [Memory.insert]
    split
    · rename_i hlt
      simp only [Memory.risingFrom, Bool.and_eq_true, decide_eq_true_eq]
      exact ⟨⟨hlo, ha⟩, ⟨hlt, h.1.2⟩, h.2⟩
    · split
      · rename_i heq
        subst heq
        simp only [Memory.risingFrom, Bool.and_eq_true, decide_eq_true_eq]
        exact ⟨⟨hlo, ha⟩, h.2⟩
      · simp only [Memory.risingFrom, Bool.and_eq_true, decide_eq_true_eq]
        exact ⟨h.1, ih (by omega) h.2⟩

theorem Memory.wf_write (m : Memory) (a : Nat) (b : Byte) (h : m.wf = true) : (Memory.write m a b).wf = true :=
  Memory.risingFrom_insert m b (Nat.zero_le _) (Nat.mod_lt _ (by decide)) h

theorem Memory.wf_writeLE (m : Memory) (a n v : Nat) (h : m.wf = true) : (Memory.writeLE m a n v).wf = true := by
  induction n generalizing m a v with
  | zero => exact h
  | succ n ih => exact ih _ _ _ (Memory.wf_write m a _ h)

theorem Memory.wf_zeroed (m : Memory) (a n : Nat) (h : m.wf = true) : (Memory.zeroed m a n).wf = true := by
  induction n generalizing m a with
  | zero => exact h
  | succ n ih => exact ih _ _ (Memory.wf_write m a 0 h)

theorem State.reset_mem_wf : State.reset.env.mem.wf = true := rfl

/-! ### The zero-fill -/

theorem Memory.read_zeroed_outside (m : Memory) (a n x : Nat)
    (h : ∀ k, k < n → x % Config.memorySize ≠ (a + k) % Config.memorySize) :
    (Memory.zeroed m a n).read x = m.read x := by
  induction n generalizing m a with
  | zero => rfl
  | succ n ih =>
    simp only [Memory.zeroed]
    rw [ih, Memory.read_write_ne]
    · simpa using h 0 (by omega)
    · intro k hk
      have := h (k + 1) (by omega)
      rwa [show a + (k + 1) = a + 1 + k by omega] at this

theorem Memory.read_zeroed_inside (m : Memory) (a n k : Nat) (hk : k < n) :
    (Memory.zeroed m a n).read (a + k) = 0 := by
  induction n generalizing m a k with
  | zero => omega
  | succ n ih =>
    simp only [Memory.zeroed]
    cases k with
    | succ k => rw [show a + (k + 1) = a + 1 + k by omega]; exact ih _ _ _ (by omega)
    | zero =>
      by_cases hz : ∀ j, j < n → (a + 0) % Config.memorySize ≠ (a + 1 + j) % Config.memorySize
      · rw [Memory.read_zeroed_outside _ _ _ _ hz, Nat.add_zero, Memory.read_write_self]
      · push Not at hz
        obtain ⟨j, hj, he⟩ := hz
        have hr := ih (Memory.write m a 0) (a + 1) j hj
        unfold Memory.read at hr ⊢
        rw [he]
        exact hr

end Sys2Proof.Machine
end

