-- ==== Sys2Proof/Laws/PerInstr.lean ====
section
/-! SUPPORT. Statements about every instruction, one lemma per constructor. -/

namespace Sys2Proof.Laws.EncodeFitsRow

open Sys2Proof.Machine

/-- The word of a well-formed instruction selects a row of the opcode map (rules R103, R105). -/
def Statement (i : Instr) : Prop := i.wellFormed = true → ∃ r ∈ opcodeRows, r.selects (encode i)

theorem timing : Statement .timing := fun _ => ⟨⟨0x01000000, 0xFFFFFFFF⟩, by decide, rfl⟩
theorem outon : Statement .outon := fun _ => ⟨⟨0x02000000, 0xFFFFFFFF⟩, by decide, rfl⟩
theorem outoff : Statement .outoff := fun _ => ⟨⟨0x03000000, 0xFFFFFFFF⟩, by decide, rfl⟩

theorem wcfg (win : Nat) (fmt : BitVec 2) (se db bl pd : Bool) : Statement (.wcfg win fmt se db bl pd) := by
  intro h
  have hw : win < 16 := of_decide_eq_true h
  refine ⟨⟨0x10000000, 0xFF003FFF⟩, by decide, ?_⟩
  have hall : ∀ (w : Fin 16) (f : Fin 4) (a b c d : Bool),
      encode (.wcfg w.val (BitVec.ofFin f) a b c d) &&& 0xFF003FFF#32 = 0x10000000#32 := by decide +kernel
  exact hall ⟨win, hw⟩ fmt.toFin se db bl pd

theorem wpan (win : Nat) : Statement (.wpan win) := by
  intro h
  have hw : win < 16 := of_decide_eq_true h
  have hall : ∀ w : Fin 16, encode (.wpan w.val) &&& 0xFF0FFFFF#32 = 0x11000000#32 := by decide +kernel
  exact ⟨⟨0x11000000, 0xFF0FFFFF⟩, by decide, hall ⟨win, hw⟩⟩

theorem wen (win : Nat) : Statement (.wen win) := by
  intro h
  have hw : win < 16 := of_decide_eq_true h
  have hall : ∀ w : Fin 16, encode (.wen w.val) &&& 0xFF0FFFFF#32 = 0x12000000#32 := by decide +kernel
  exact ⟨⟨0x12000000, 0xFF0FFFFF⟩, by decide, hall ⟨win, hw⟩⟩

theorem wdis (win : Nat) : Statement (.wdis win) := by
  intro h
  have hw : win < 16 := of_decide_eq_true h
  have hall : ∀ w : Fin 16, encode (.wdis w.val) &&& 0xFF0FFFFF#32 = 0x13000000#32 := by decide +kernel
  exact ⟨⟨0x13000000, 0xFF0FFFFF⟩, by decide, hall ⟨win, hw⟩⟩

theorem pset (win idx : Nat) : Statement (.pset win idx) := by
  intro h
  have h' : winFits win = true ∧ idxFits idx = true := by
    rw [← Bool.and_eq_true]
    exact h
  have hw : win < 16 := of_decide_eq_true h'.1
  have hi : idx < 256 := of_decide_eq_true h'.2
  have hall : ∀ (w : Fin 16) (k : Fin 256), encode (.pset w.val k.val) &&& 0xFF0FFF00#32 = 0x20000000#32 := by
    decide +kernel
  exact ⟨⟨0x20000000, 0xFF0FFF00⟩, by decide, hall ⟨win, hw⟩ ⟨idx, hi⟩⟩

theorem pflush (win : Nat) : Statement (.pflush win) := by
  intro h
  have hw : win < 16 := of_decide_eq_true h
  have hall : ∀ w : Fin 16, encode (.pflush w.val) &&& 0xFF0FFFFF#32 = 0x21000000#32 := by decide +kernel
  exact ⟨⟨0x21000000, 0xFF0FFFFF⟩, by decide, hall ⟨win, hw⟩⟩

theorem vwait (slot : Nat) : Statement (.vwait slot) := by
  intro h
  have hs : slot < 4 := of_decide_eq_true h
  have hall : ∀ k : Fin 4, encode (.vwait k.val) &&& 0xFFFCFFFF#32 = 0x30000000#32 := by decide +kernel
  exact ⟨⟨0x30000000, 0xFFFCFFFF⟩, by decide, hall ⟨slot, hs⟩⟩

theorem susp : Statement .susp := fun _ => ⟨⟨0x40000000, 0xFFFFFFFF⟩, by decide, rfl⟩
theorem resm : Statement .resm := fun _ => ⟨⟨0x41000000, 0xFFFFFFFF⟩, by decide, rfl⟩

end Sys2Proof.Laws.EncodeFitsRow
end

