-- ==== Sys2Proof/Tests/Slice0.lean ====
section
/-! SUPPORT. Tests on single steps with results taken from the spec's own vectors (file 95_test_vectors.md), refusals of
ill-formed terms, hand-written words, and one witness for the hypotheses of every statement that has some. -/

namespace Sys2Proof.Tests

-- One theorem after the other: theorems that the kernel evaluates would otherwise each hold a thread while they wait.
set_option Elab.async false

open Sys2Proof.Machine

/-! ### Helpers -/

/-- The outcome is a next state with the property. -/
def holdsAfter (o : Host.Outcome State Fault Refusal) (p : State → Bool) : Bool :=
  match o with
  | .next t => p t
  | _ => false

theorem next_of_holdsAfter {o : Host.Outcome State Fault Refusal} {p : State → Bool} (h : holdsAfter o p = true) :
    ∃ t, o = .next t ∧ p t = true := by
  cases o with
  | next t => exact ⟨t, rfl, h⟩
  | fault r => cases h
  | refused r => cases h

/-- "The 320 × 480 configuration" of the vectors, with carve-outs for the five windows. -/
def panel : ConfigBank :=
  { srcclk := 12000000, res := 0x01E00140, vres := 0, htim := 0x00A0280A, vtim := 0x00800803, refresh := 0x3C, misc := 0,
    phys := 0, fbBase := #v[0x20000000, 0x20100000, 0x20200000, 0x20210000, 0x20300000],
    fbCap := #v[0x00100000, 0x00010000, 0x00010000, 0x00010000, 0x00001000] }

/-- Reset with the panel's configuration written. -/
def written : State := { State.reset with cfg := panel }

/-- The registers that TIMING leaves for the panel (vector S1). -/
def panelRegs : EngineRegs :=
  { EngineRegs.zero with timv := 0x00070201, timh := 0x00090909, timsize := 0x01DF013F }

/-- After TIMING (vector S1). -/
def ready : State :=
  { written with
    port := { Port.reset with configured := true }
    shadow := panelRegs
    hwwrcnt := 6
    engine := { Engine.lost 0 with regs := panelRegs } }

/-- The state with these argument registers latched. -/
def latched (s : State) (a b c d : Word) : State := { s with port := { s.port with latch := #v[a, b, c, d, 0, 0] } }

/-- The state with these choices scheduled. -/
def scheduled (s : State) (es : List Event) : State := { s with env := { s.env with schedule := es } }

/-- The state with a command word accepted. -/
def accepted (s : State) (w : Word) : State := { s with port := { s.port with cmd := w, csq := .accepted } }

/-- The registers of window 0 after vector VW1. -/
def doubleRegs : EngineRegs :=
  { panelRegs with
    alatch := 1
    win := panelRegs.win.set 0
      { WinRegs.zero with
        ctl := 0x95, posB := 0x013F01DF, start0 := 0x20000000, end0 := 0x2004B000, start1 := 0x2004B000,
        end1 := 0x20096000, size := 0x280 } }

/-- Window 0 after vector VW1: RGB565, 320 × 480, two halves. -/
def doubleWindow : Window :=
  { format := some .rgb565, x := 0, y := 0, width := 320, height := 480, vwidth := 320, vheight := 960,
    lineStride := 640, panOffset := 0, yOffset := 0,
    buffer := some { base := 0x20000000, length := 614400, double := true, committed := false },
    enabled := true, blend := none, palDefer := false }

/-- After vector VW1. -/
def doubled : State :=
  { ready with
    windows := ready.windows.set 0 doubleWindow
    shadow := doubleRegs
    hwwrcnt := 17
    engine := { ready.engine with regs := doubleRegs } }

/-- An Indexed8 window 0 with a clear pending table, its palette flushed at once or with the next vsync. -/
def indexed (deferred : Bool) : State :=
  { ready with
    windows := ready.windows.set 0
      { doubleWindow with
        format := some .indexed8, vheight := 480, lineStride := 320, palDefer := deferred,
        buffer := some { base := 0x20000000, length := 155648, double := false, committed := false } }
    pend := { ready.pend with table := ready.pend.table.set 0 (some PendTable.clear) } }

/-- An Indexed8 window 0 with one colour pending. -/
def dirtied (deferred : Bool) : State :=
  { indexed deferred with
    pend := { (indexed deferred).pend with
      table := (indexed deferred).pend.table.set 0 (some (PendTable.clear.set 5 (some 0x80000000)))
      dirty := (indexed deferred).pend.dirty.set 0 true } }

/-- The state suspended: the clocks off, the registers in the snapshot. -/
def suspended (s : State) : State :=
  { s with
    power := { pstate := .suspended, busclkOn := false, pixclkOn := false, snapshot := some s.shadow, settle := 0,
               retry := 0 }
    engine := Engine.lost s.env.draws }

/-- The platform's domain is ready. -/
def readied (s : State) : State := { s with env := { s.env with domainReady := true } }

/-- Slot 2 of the vsync unit waits, the count at 41 (vector VY1). -/
def waiting : State :=
  { ready with vsync := { ready.vsync with
      vscount := 41
      waiters := ready.vsync.waiters.set 2 ({ state := .waiting, snap := 41, rem := 3, val := 0 } : Waiter) } }

/-- A faulted block (rule R256). -/
def broken : State := (suspended ready).raise 0x200

/-! ### Well-formedness: one ill-formed term for each check -/

theorem test_win_of_wcfg_refused : (Instr.wcfg 16 0 false false false false).wellFormed = false := by decide
theorem test_win_of_wpan_refused : (Instr.wpan 16).wellFormed = false := by decide
theorem test_win_of_wen_refused : (Instr.wen 16).wellFormed = false := by decide
theorem test_win_of_wdis_refused : (Instr.wdis 16).wellFormed = false := by decide
theorem test_win_of_pset_refused : (Instr.pset 16 0).wellFormed = false := by decide
theorem test_idx_of_pset_refused : (Instr.pset 0 256).wellFormed = false := by decide
theorem test_win_of_pflush_refused : (Instr.pflush 16).wellFormed = false := by decide
theorem test_slot_of_vwait_refused : (Instr.vwait 4).wellFormed = false := by decide

/-! ### Words written out from the encodings (vectors VE1 to VE25), bits as rule R103 lays them out -/

theorem test_word_timing : decodeWord 0b00000001000000000000000000000000 = .ok .timing := rfl
theorem test_word_outon : decodeWord 0b00000010000000000000000000000000 = .ok .outon := rfl
theorem test_word_outoff : decodeWord 0b00000011000000000000000000000000 = .ok .outoff := rfl
/-- VE4: OPC 10, WIN 0, FMT 01, SE 1, DB 1, BL 0, PD 0. -/
theorem test_word_wcfg_double : decodeWord 0b00010000000001110000000000000000
    = .ok (.wcfg 0 1 true true false false) := rfl
/-- VE7: OPC 10, WIN 4, FMT 10, SE 1, DB 0, BL 1, PD 0. -/
theorem test_word_wcfg_blend : decodeWord 0b00010000010010101000000000000000
    = .ok (.wcfg 4 2 true false true false) := rfl
/-- VE6: the deferred palette bit; VE8, VE9: FMT 3 and WIN 15 decode. -/
theorem test_words_wcfg : decodeWord 0x10024000 = .ok (.wcfg 0 0 true false false true)
    ∧ decodeWord 0x100C0000 = .ok (.wcfg 0 3 false false false false)
    ∧ decodeWord 0x10F00000 = .ok (.wcfg 15 0 false false false false) := ⟨rfl, rfl, rfl⟩
theorem test_word_wpan : decodeWord 0b00010001001100000000000000000000 = .ok (.wpan 3) := rfl
theorem test_word_wen : decodeWord 0b00010010000000000000000000000000 = .ok (.wen 0) := rfl
theorem test_word_wdis : decodeWord 0b00010011000000000000000000000000 = .ok (.wdis 0) := rfl
theorem test_word_pset : decodeWord 0b00100000001000000000000011111111 = .ok (.pset 2 255) := rfl
theorem test_word_pflush : decodeWord 0b00100001000100000000000000000000 = .ok (.pflush 1) := rfl
theorem test_word_vwait : decodeWord 0b00110000000000110000000000000000 = .ok (.vwait 3) := rfl
theorem test_word_susp : decodeWord 0b01000000000000000000000000000000 = .ok .susp := rfl
theorem test_word_resm : decodeWord 0b01000001000000000000000000000000 = .ok .resm := rfl

/-- VE19 to VE24: a bit that the format shows as 0. -/
theorem test_reserved_bits : decodeWord 0x01000001 = .error (.reservedBitSet 0x01)
    ∧ decodeWord 0x12000001 = .error (.reservedBitSet 0x12) ∧ decodeWord 0x10002000 = .error (.reservedBitSet 0x10)
    ∧ decodeWord 0x20010000 = .error (.reservedBitSet 0x20) ∧ decodeWord 0x30040000 = .error (.reservedBitSet 0x30)
    ∧ decodeWord 0x30100000 = .error (.reservedBitSet 0x30) := ⟨rfl, rfl, rfl, rfl, rfl, rfl⟩

/-- VE18, VE25: OPC values that the map does not list. -/
theorem test_unlisted_opcodes : decodeWord 0 = .error (.unlistedOpcode 0)
    ∧ decodeWord 0x04000000 = .error (.unlistedOpcode 0x04) ∧ decodeWord 0x14000000 = .error (.unlistedOpcode 0x14)
    ∧ decodeWord 0x22000000 = .error (.unlistedOpcode 0x22) ∧ decodeWord 0x31000000 = .error (.unlistedOpcode 0x31)
    ∧ decodeWord 0x42000000 = .error (.unlistedOpcode 0x42)
    ∧ decodeWord 0xFF000000 = .error (.unlistedOpcode 0xFF) := ⟨rfl, rfl, rfl, rfl, rfl, rfl, rfl⟩

/-- A run of bytes that is not one word is no command. -/
theorem test_short_bytes : decodeBytes [0, 0, 1] = .error (.notOneWord 3) := rfl

/-- The host's reading of the table's first and last rows. -/
theorem test_table_words : decodeTableWord 32 0x01000000 = some .timing ∧ decodeTableWord 32 0x41000000 = some .resm :=
  ⟨by decide, by decide⟩

/-! ### One step of each instruction, by the spec's vectors -/

/-- S1. -/
theorem test_timing_panel : holdsAfter (exec .timing written) (fun t =>
    t.statusWord == 0x08 && t.port.retval == 1 && decide (t.engine.regs = panelRegs) && t.hwwrcnt == 6) = true := by
  decide +kernel
/-- VT2: SRCCLK 16000000. -/
theorem test_timing_invalid : holdsAfter (exec .timing { written with cfg := { panel with srcclk := 16000000 } })
    (fun t => t.statusWord == 0x40 && t.hwwrcnt == 0) = true := by decide +kernel

/-- P1 line 14: the rising OUT_EN loads the latches. -/
theorem test_outon_loads : holdsAfter (exec .outon doubled) (fun t =>
    t.engine.regs.inten == 1 && t.engine.regs.ctrl == 1 && t.hwwrcnt == 19 && t.engine.actStart[0] == 0x20000000
      && t.engine.actEnd[0] == 0x2004B000 && decide (t.engine.cur = .at 0 0) && t.frame == 0) = true := by decide +kernel
/-- From reset: NotReady (file 95, section 2.1). -/
theorem test_outon_early : holdsAfter (exec .outon State.reset) (fun t => t.statusWord == 0xE0) = true := by
  decide +kernel

theorem test_outoff : holdsAfter
    (exec .outoff { ready with
      shadow := { panelRegs with ctrl := 0x0201 }
      engine := { ready.engine with regs := { panelRegs with ctrl := 0x0201 }, cur := .at 3 4 } })
    (fun t => t.shadow.ctrl == 0x0200 && t.engine.regs.ctrl == 0x0200 && decide (t.engine.cur = .idle)
      && t.statusWord == 0x08) = true := by decide +kernel

/-- VW17: the buffer is reused. -/
theorem test_wcfg_reuse : holdsAfter
    (exec (.wcfg 0 1 true true false false) (latched doubled 0 0x014001E0 0x014003C0 0))
    (fun t => decide (t.engine.regs = doubleRegs) && decide (t.windows[0] = doubleWindow) && t.hwwrcnt == 28
      && t.windows[0].flagsWord == 0x117 && decide (t.env.mem = [])) = true := by decide +kernel
/-- S2: x + width past the panel. -/
theorem test_wcfg_too_wide : holdsAfter
    (exec (.wcfg 0 1 false false false false) (latched ready 0x012C0000 0x002801E0 0x002801E0 0))
    (fun t => t.statusWord == 0x28 && t.hwwrcnt == 6 && decide (t.windows = ready.windows)) = true := by decide +kernel

/-- VN1: a pan into half 1. -/
theorem test_wpan_half : holdsAfter (exec (.wpan 0) (latched doubled 480 0 0 0)) (fun t =>
    t.shadow.win[0].start1 == 0x2004B000 && t.shadow.win[0].end1 == 0x20096000 && t.engine.regs.win[0].ctl == 0x97
      && t.windows[0].flagsWord == 0x197 && t.windows[0].yOffset == 480 && t.hwwrcnt == 22) = true := by decide +kernel
/-- VN5: no wrap of the product. -/
theorem test_wpan_past_end : holdsAfter (exec (.wpan 0) (latched doubled 0xFFFFFFFF 0 0 0)) (fun t =>
    t.statusWord == 0x58 && t.hwwrcnt == 17 && decide (t.shadow = doubleRegs)) = true := by decide +kernel

theorem test_wen : holdsAfter
    (exec (.wen 0) { doubled with
      shadow := doubleRegs.put (.win 0 .ctl) 0x94, windows := doubled.windows.set 0 { doubleWindow with enabled := false } })
    (fun t => t.engine.regs.win[0].ctl == 0x95 && t.windows[0].enabled && t.hwwrcnt == 18) = true := by decide +kernel
/-- VN10. -/
theorem test_wen_unconfigured : holdsAfter (exec (.wen 3) ready) (fun t => t.statusWord == 0x18 && t.hwwrcnt == 6)
    = true := by decide +kernel

/-- S5. -/
theorem test_wdis : holdsAfter (exec (.wdis 0) doubled) (fun t =>
    t.shadow.win[0].ctl == 0x94 && t.windows[0].enabled == false && t.hwwrcnt == 18) = true := by decide +kernel
/-- VX10: while suspended. -/
theorem test_wdis_suspended : holdsAfter (exec (.wdis 0) (suspended doubled)) (fun t =>
    t.statusWord == 0x0B && t.vsync.maskWord == 1 && t.shadow.win[0].ctl == 0x94 && t.hwwrcnt == 17) = true := by
  decide +kernel

/-- VL3: the later colour stays. -/
theorem test_pset_again : holdsAfter (exec (.pset 0 5) (latched (dirtied false) 0x22222222 0 0 0)) (fun t =>
    (t.pend.table[0].map fun x => x[5]) == some (some 0x22222222) && t.pend.dirty[0] && t.hwwrcnt == 6) = true := by
  decide +kernel
/-- VL5. -/
theorem test_pset_unindexed : holdsAfter (exec (.pset 1 0) ready) (fun t => t.statusWord == 0x38) = true := by
  decide +kernel

/-- S9: the value 0x80000000 is a colour as any other. -/
theorem test_pflush_sentinel : holdsAfter (exec (.pflush 0) (dirtied false)) (fun t =>
    t.engine.palram[0].words[5] == some 0x80000000 && t.hwwrcnt == 9 && t.pend.dirty[0] == false
      && t.shadow.palctl == 0) = true := by decide +kernel
/-- VL7: the deferred flush is only requested. -/
theorem test_pflush_deferred : holdsAfter (exec (.pflush 0) (dirtied true)) (fun t =>
    t.statusWord == 0x08 && packFlags t.pend.request == 1 && t.pend.dirty[0] && t.hwwrcnt == 6) = true := by
  decide +kernel

/-- VY1, its first half. -/
theorem test_vwait_arms : holdsAfter (exec (.vwait 1) (latched waiting 3 0 0 0)) (fun t =>
    t.port.retval == 41 && t.vsync.waiters[1] == { state := .waiting, snap := 41, rem := 3, val := 0 }) = true := by
  decide +kernel
/-- VY5. -/
theorem test_vwait_twice : holdsAfter (exec (.vwait 2) (latched waiting 9 0 0 0)) (fun t =>
    t.statusWord == 0xF8 && t.vsync.waiters[2] == waiting.vsync.waiters[2]) = true := by decide +kernel

/-- VQ2. -/
theorem test_susp_suspended : holdsAfter (exec .susp (suspended doubled)) (fun t =>
    t.power.statWord == 0x02 && t.statusWord == 0x08 && decide (t.env.out = [])) = true := by decide +kernel

/-- VQ4: 58 writes, the registers as before. -/
theorem test_resm_restores : holdsAfter (exec .resm (readied (suspended doubled))) (fun t =>
    t.power.statWord == 0x30 && t.hwwrcnt == 75 && decide (t.engine.regs = doubleRegs) && decide (t.shadow = doubleRegs)
      && decide (t.power.snapshot = none)) = true := by decide +kernel
/-- VQ8: SRCCLK changed to a value that the calculator refuses. -/
theorem test_resm_bad_clock : holdsAfter
    (exec .resm { readied (suspended doubled) with cfg := { panel with srcclk := 16000000 } }) (fun t =>
      t.statusWord == 0x78 && t.power.statWord == 0x02 && t.hwwrcnt == 68) = true := by decide +kernel

/-! ### The other agents, by the spec's vectors -/

/-- VY1, VY4: one handled vsync. -/
theorem test_handler_wakes : holdsAfter
    (step { waiting with vsync := { waiting.vsync with handler := .running [.countVsync, .wakeWaiters, .handlerReturn] } })
    (fun t => t.vsync.vscount == 42 && t.vsync.waiters[2].statWord == 0x02 && t.vsync.waiters[2].val == 42
      && decide (t.vsync.handler = .idle)) = true := by decide +kernel
/-- VY3: a time-out of 0 ends at the first TICK. -/
theorem test_tick_timeout : ({ state := .waiting, snap := 0, rem := 0, val := 0 } : Waiter).tick 41
    = { state := .timedOut, snap := 0, rem := 0, val := 41 } := by decide
/-- VK1, VK2: 5-6-5 components by bit replication. -/
theorem test_direct_colour : (Engine.lost 0).decodePixel 0 .rgb565 0x8410 = { r := 132, g := 130, b := 132 }
    ∧ (Engine.lost 0).decodePixel 0 .rgb565 0x0821 = { r := 8, g := 4, b := 8 } := by decide +kernel
/-- VK5, VK6: the colour key. -/
theorem test_colour_key : keyMatches 0x00FF03FF .rgb565 0xF81F background = true
    ∧ keyMatches 0x00FF03FF .rgb565 0xF83F background = false := by decide +kernel
/-- VK8, VK9, VK12. -/
theorem test_blend : blendOver { r := 255, g := 0, b := 0 } { r := 0, g := 0, b := 255 } 0x80 = { r := 128, g := 0, b := 127 }
    ∧ blendOver { r := 10, g := 20, b := 30 } { r := 200, g := 100, b := 50 } 64 = { r := 152, g := 79, b := 44 }
    ∧ blendOver { r := 255, g := 255, b := 255 } { r := 0, g := 0, b := 0 } 1 = { r := 1, g := 1, b := 1 } := by
  decide +kernel
/-- VX5: unnamed bits of a CFG register read 0. -/
theorem test_unnamed_bits : holdsAfter (State.reset.hostWrite .word 0x088 0xFFFFFFFF) (fun t =>
    t.portValue 0x088 == 0x3FFFFFFF) = true := by decide +kernel
/-- VX7: an engine read while suspended. -/
theorem test_gated_read : holdsAfter ((suspended ready).hostRead .word 0x100) (fun t => t.faulted && t.env.out == [])
    = true := by decide +kernel

/-! ### Witnesses: states and operands that meet the hypotheses of each statement, each clause at a boundary value -/

theorem undisturbed_ready : ready.undisturbed := ⟨rfl, rfl, rfl⟩
theorem undisturbed_doubled : doubled.undisturbed := ⟨rfl, rfl, rfl⟩

theorem witness_DecodeOfEncode : (Instr.wcfg 15 3 true true true true).wellFormed = true
    ∧ (Instr.pset 15 255).wellFormed = true ∧ (Instr.vwait 3).wellFormed = true := by decide
theorem witness_EncodeOfDecode : decodeWord 0x20F000FF = .ok (.pset 15 255)
    ∧ decodeWord 0x10FFC000 = .ok (.wcfg 15 3 true true true true) := ⟨rfl, rfl⟩
theorem witness_IllegalWords :
    (∃ r ∈ opcodeRows, r.selects 0x200000FF)
      ∧ (accepted ready 0x01000001).port.csq = .accepted ∧ (accepted ready 0x01000001).undisturbed
      ∧ decodeWord (accepted ready 0x01000001).port.cmd = .error (.reservedBitSet 0x01) :=
  ⟨⟨⟨0x20000000, 0xFF0FFF00⟩, by decide, rfl⟩, rfl, ⟨rfl, rfl, rfl⟩, rfl⟩

/-- Both clauses: nothing scheduled, and the sequencer's turn scheduled before another. -/
theorem witness_StepRunsDecodedCommand :
    ((accepted ready 0x13000000).port.csq = .accepted ∧ (accepted ready 0x13000000).port.fault = none
        ∧ (accepted ready 0x13000000).vsync.handler = .idle
        ∧ decodeWord (accepted ready 0x13000000).port.cmd = .ok (.wdis 0)
        ∧ (accepted ready 0x13000000).env.schedule = [])
      ∧ (scheduled (accepted ready 0x13000000) [.sequencer, .tick]).env.schedule = .sequencer :: [.tick] :=
  ⟨⟨rfl, rfl, rfl, rfl, rfl⟩, rfl⟩
theorem witness_PlacedWordRuns : decodeTableWord 32 0x10F00000 = some (.wcfg 15 0 false false false false) := by decide
/-- Accepted when idle, dropped when busy, dropped after the fault. -/
theorem witness_DoorbellWrite : (ready.busy = false ∧ ready.faulted = false)
    ∧ (accepted ready 0).busy = true ∧ broken.faulted = true := by decide +kernel

/-- The last offset of the port, an engine offset with the clock on, and one with it off. -/
theorem witness_HostReads : (0x4FFC % 4 = 0 ∧ 0x4FFC < 0x5000 ∧ ¬ engineOffset 0x4FFC)
    ∧ (engineOffset 0x100 ∧ ready.port.fault = none ∧ ready.power.busclkOn = true)
    ∧ (engineOffset 0x2FFC ∧ (suspended ready).port.fault = none ∧ (suspended ready).power.busclkOn = false) := by
  decide +kernel
theorem witness_UndefinedAccesses : Width.byte ≠ .word ∧ 0x0002 % 4 ≠ 0 ∧ 0x5000 ≤ 0x5000 := by decide
/-- One offset for each clause: reserved and read-only, engine with the clock on and off, ARG5, a locked and an
unlocked Lock register; SRCCLK idle, while RESM runs and while SUSP runs. -/
theorem witness_HostWrites : ready.port.fault = none
    ∧ (¬ engineOffset 0x070 ∧ 0x070 ∉ writableOffsets ∧ ¬ engineOffset 0x004 ∧ 0x004 ∉ writableOffsets)
    ∧ (engineOffset 0x3FC ∧ ready.power.busclkOn = true)
    ∧ (engineOffset 0x1000 ∧ (suspended ready).power.busclkOn = false ∧ (suspended ready).port.fault = none)
    ∧ 0x024 = 0x010 + 4 * (5 : Fin 6).val
    ∧ (ready.busy = false ∧ (accepted ready 0x41000000).busy = true
        ∧ decodeWord (accepted ready 0x41000000).port.cmd = .ok .resm
        ∧ (accepted ready 0x40000000).busy = true ∧ decodeWord (accepted ready 0x40000000).port.cmd = .ok .susp)
    ∧ ((0x080, 0x1FFF1FFF) ∈ lockMasks ∧ ready.port.configured = true)
    ∧ ((0x0C4, 0xFFFFFFFF) ∈ lockMasks ∧ written.port.configured = false) :=
  ⟨rfl, by decide +kernel, by decide +kernel, by decide +kernel, rfl, ⟨rfl, rfl, rfl, rfl, rfl⟩, by decide +kernel,
   by decide +kernel⟩
theorem witness_ShadowPort : RegId.win 4 .key ∈ shadowIds ∧ RegId.ctrl ∈ shadowIds
    ∧ (0x100, (0 : Word)) ∈ registersAt EngineRegs.zero ∧ (0x324, (0 : Word)) ∈ registersAt EngineRegs.zero := by
  decide +kernel
theorem witness_DescriptorRegisters :
    doubled.windows[0].lineStride < 65536 ∧ doubled.windows[0].panOffset < 65536 := by decide +kernel
/-- An offset below 0x100 that no rule names, and the last of the port. -/
theorem witness_ControlRegisters : (0x00C < 0x5000 ∧ 0x00C % 4 = 0 ∧ ¬ offsetNamed 0x00C)
    ∧ 0x4FFC < 0x5000 ∧ 0x4FFC % 4 = 0 ∧ ¬ offsetNamed 0x4FFC := by
  refine ⟨⟨by decide, by decide, ?_⟩, by decide, by decide, ?_⟩ <;>
    (unfold offsetNamed; decide +kernel)
/-- A scheduled write to a locked register. -/
theorem witness_ConfigurationStaysLocked :
    (scheduled ready [.hostWrite .word 0x080 0]).port.configured = true
      ∧ Event.reset ∉ (scheduled ready [.hostWrite .word 0x080 0]).env.schedule
      ∧ ∃ t, step (scheduled ready [.hostWrite .word 0x080 0]) = .next t ∧ decide (t.cfg = panel) = true :=
  ⟨rfl, by decide, next_of_holdsAfter (p := fun t => decide (t.cfg = panel)) (by decide +kernel)⟩

/-- Both kinds of divider: the floor (VT1, VT7), and one less (VT12). -/
theorem witness_TimingCalculator : panel.timingCalc = some (panel.images 1)
    ∧ ({ panel with srcclk := 25882500 } : ConfigBank).timingCalc = some (panel.images 1) := by decide +kernel
theorem witness_TimingImages : panel.timingCalc = some (panel.images 1) := by decide +kernel
theorem witness_TimingWorkedExample : panel.srcclk = 12000000 ∧ panel.xres = 320 ∧ panel.yres = 480 ∧ panel.hfp = 10
    ∧ panel.hsw = 10 ∧ panel.hbp = 10 ∧ panel.vfp = 3 ∧ panel.vsw = 2 ∧ panel.vbp = 8 ∧ panel.refreshHz = 60 := by
  decide +kernel
/-- Configured; a configuration that the calculator refuses; one that it takes, with the clock on and off. -/
theorem witness_TimingCommand : ready.port.configured = true
    ∧ (State.reset.port.configured = false ∧ State.reset.cfg.timingCalc = none)
    ∧ (written.port.configured = false ∧ written.cfg.timingCalc = some (panel.images 1) ∧ written.undisturbed
        ∧ written.clocked)
    ∧ ((suspended written).undisturbed ∧ (suspended written).power.busclkOn = false
        ∧ (suspended written).cfg.timingCalc = some (panel.images 1)) :=
  ⟨rfl, ⟨rfl, by decide +kernel⟩, ⟨rfl, by decide +kernel, ⟨rfl, rfl, rfl⟩, rfl⟩, ⟨rfl, rfl, rfl⟩, rfl, by decide +kernel⟩
theorem witness_OutonCommand : State.reset.port.configured = false
    ∧ (ready.port.configured = true ∧ ready.undisturbed ∧ ready.clocked)
    ∧ ((suspended ready).port.configured = true ∧ (suspended ready).undisturbed
        ∧ (suspended ready).power.busclkOn = false) := ⟨rfl, ⟨rfl, ⟨rfl, rfl, rfl⟩, rfl⟩, rfl, ⟨rfl, rfl, rfl⟩, rfl⟩
theorem witness_OutoffCommand : (ready.undisturbed ∧ ready.clocked)
    ∧ (suspended ready).undisturbed ∧ (suspended ready).power.busclkOn = false :=
  ⟨⟨⟨rfl, rfl, rfl⟩, rfl⟩, ⟨rfl, rfl, rfl⟩, rfl⟩

/-- NotReady; window 5; the eleventh check failing on window 0 (VW16); every check passing. -/
theorem witness_WcfgChecks : State.reset.port.configured = false ∧ ready.port.configured = true
    ∧ wcfgFirstError panel 0 1 true false (latched ready 0 0x014001E0 0x01400384 0).wcfgArgs 0x00100000 0x20000000
        = some .invalidGeometry
    ∧ wcfgFirstError panel 0 1 true false (latched ready 0 0x014001E0 0x014003C0 0).wcfgArgs 0x00100000 0x20000000
        = none := by decide +kernel
/-- Vector VW1, on a fresh window with the clock on and with the clock off. -/
theorem witness_WcfgCommand :
    (latched ready 0 0x014001E0 0x014003C0 0).port.configured = true
      ∧ (latched ready 0 0x014001E0 0x014003C0 0).undisturbed ∧ (latched ready 0 0x014001E0 0x014003C0 0).clocked
      ∧ (∃ x, wcfgCheck panel 0 1 true false (latched ready 0 0x014001E0 0x014003C0 0).wcfgArgs = .ok x)
      ∧ (latched (suspended ready) 0 0x014001E0 0x014003C0 0).undisturbed
      ∧ (latched (suspended ready) 0 0x014001E0 0x014003C0 0).power.busclkOn = false :=
  ⟨rfl, ⟨rfl, rfl, rfl⟩, rfl, ⟨_, rfl⟩, ⟨rfl, rfl, rfl⟩, rfl⟩

/-- A format that is not Indexed8, and another window. -/
theorem witness_WcfgWords : Format.rgb888 ≠ .indexed8 ∧ (4 : Win) ≠ 0 := by decide

/-- A block whose window 0 has a carve-out that ends with the address space, one RGB565 panel long. -/
def topmost : State :=
  latched { ready with cfg := { panel with
      fbBase := panel.fbBase.set 0 0xFFFB5000, fbCap := panel.fbCap.set 0 0x0004B000 } } 0 0x014001E0 0x014001E0 0

/-- The end address 2^32 of log entry 11: a WCFG that passes its checks and ends there, and a pan by 0 of such a window,
which scan-out would load. -/
theorem witness_addressWordsHold : (∃ f l, wcfgCheck topmost.cfg 0 1 false false topmost.wcfgArgs = .ok (f, l)
      ∧ topmost.cfg.fbBase[0].toNat + l.visible = 4294967296)
    ∧ topmost.port.configured = true ∧ topmost.undisturbed ∧ topmost.clocked
    ∧ Window.panPlan { doubleWindow with buffer := some { base := 0xFFFB5000, length := 307200, double := false,
                                                          committed := false } } 0
        = some { start := 0xFFFB5000, stop := 4294967296, half := false } :=
  ⟨⟨_, _, rfl, by decide +kernel⟩, rfl, ⟨rfl, rfl, rfl⟩, rfl, by decide +kernel⟩

/-- The platform's obligations are met by the panel's carve-outs, of windows 0 and 4 alone and of all five. -/
theorem platform_panel (configured : Win → Prop) : platformObligations panel configured :=
  ⟨fun i _ => (by decide +kernel : ∀ i : Win, panel.fbBase[i].toNat % Config.page = 0
      ∧ panel.fbBase[i].toNat + panel.fbCap[i].toNat ≤ Config.memorySize) i,
   fun i j _ _ => (by decide +kernel : ∀ i j : Win, i ≠ j → panel.fbBase[i].toNat + panel.fbCap[i].toNat
      ≤ panel.fbBase[j].toNat ∨ panel.fbBase[j].toNat + panel.fbCap[j].toNat ≤ panel.fbBase[i].toNat) i j⟩

/-- A configuration that passes its checks runs to a next state, on a fresh and on a reused buffer; the platform's
obligations hold for windows 0 and 1, and the last byte of window 1's carve-out lies in it. -/
theorem witness_WcfgMemory :
    (platformObligations panel (fun i => i.val ≤ 1) ∧ (0 : Win).val ≤ 1 ∧ (1 : Win).val ≤ 1 ∧ (1 : Win) ≠ 0
        ∧ panel.fbBase[(1 : Win)].toNat ≤ 0x2010FFFF
        ∧ 0x2010FFFF < panel.fbBase[(1 : Win)].toNat + panel.fbCap[(1 : Win)].toNat)
      ∧ (∃ f l, wcfgCheck panel 0 1 true false (latched ready 0 0x014001E0 0x014003C0 0).wcfgArgs = .ok (f, l)
        ∧ ready.windows[0].reuses f l.length = false
        ∧ ∃ t, exec (.wcfg 0 1 true true false false) (latched ready 0 0x014001E0 0x014003C0 0) = .next t)
      ∧ ∃ f l, wcfgCheck panel 0 1 true false (latched doubled 0 0x014001E0 0x014003C0 0).wcfgArgs = .ok (f, l)
        ∧ doubled.windows[0].reuses f l.length = true
        ∧ ∃ t, exec (.wcfg 0 1 true true false false) (latched doubled 0 0x014001E0 0x014003C0 0) = .next t :=
  ⟨⟨platform_panel _, by decide, by decide, by decide, by decide +kernel, by decide +kernel⟩,
   ⟨_, _, rfl, rfl, _, launch_undisturbed ⟨rfl, rfl, rfl⟩ _⟩,
   ⟨_, _, rfl, rfl, _, launch_undisturbed ⟨rfl, rfl, rfl⟩ _⟩⟩
theorem witness_IdentityPan :
    (latched ready 0 0x014001E0 0x014003C0 0).undisturbed ∧ (latched ready 0 0x014001E0 0x014003C0 0).clocked
      ∧ (latched ready 0 0x014001E0 0x014003C0 0).port.configured = true
      ∧ (∃ x, wcfgCheck panel 0 1 true false (latched ready 0 0x014001E0 0x014003C0 0).wcfgArgs = .ok x)
      ∧ ∃ t u, exec (.wcfg 0 1 true true false false) (latched ready 0 0x014001E0 0x014003C0 0) = .next t
        ∧ (∃ x : Vector Word 6, u = { t with port := { t.port with latch := x } }) ∧ u.port.latch[0] = 0 :=
  ⟨⟨rfl, rfl, rfl⟩, rfl, rfl, ⟨_, rfl⟩, _, _, launch_undisturbed ⟨rfl, rfl, rfl⟩ _,
   ⟨Vector.replicate 6 0, rfl⟩, rfl⟩

/-- NotReady; window 5; no buffer; one line past the end (VN2); the last line that fits (VN1), with the clock on and
off. -/
theorem witness_WpanCommand : State.reset.port.configured = false ∧ ready.port.configured = true
    ∧ ready.windows[3].buffer = none
    ∧ 614400 < (latched doubled 481 0 0 0).panArg * doubleWindow.lineStride + doubleWindow.height * doubleWindow.lineStride
    ∧ ((latched doubled 480 0 0 0).panArg * doubleWindow.lineStride + doubleWindow.height * doubleWindow.lineStride ≤ 614400
        ∧ 614400 / 2 ≤ (latched doubled 480 0 0 0).panArg * doubleWindow.lineStride
        ∧ (latched doubled 480 0 0 0).undisturbed ∧ (latched doubled 480 0 0 0).clocked)
    ∧ ((latched (suspended doubled) 480 0 0 0).undisturbed
        ∧ (latched (suspended doubled) 480 0 0 0).power.busclkOn = false) :=
  ⟨rfl, rfl, rfl, by decide +kernel,
   ⟨by decide +kernel, by decide +kernel, ⟨rfl, rfl, rfl⟩, rfl⟩, ⟨rfl, rfl, rfl⟩, rfl⟩
theorem witness_PanReachesScanoutAtFrameStart :
    (latched doubled 480 0 0 0).undisturbed ∧ (latched doubled 480 0 0 0).clocked
      ∧ (latched doubled 480 0 0 0).port.configured = true
      ∧ doubled.shadow.win[0].ctl = doubled.engine.regs.win[0].ctl
      ∧ doubled.windows[0].panPlan (latched doubled 480 0 0 0).panArg
          = some { start := 0x2004B000, stop := 0x20096000, half := true }
      ∧ ∃ t, exec (.wpan 0) (latched doubled 480 0 0 0) = .next t ∧ (t.shadow.win[0].ctl == 0x97) = true :=
  ⟨⟨rfl, rfl, rfl⟩, rfl, rfl, rfl, by decide +kernel,
   next_of_holdsAfter (p := fun t => t.shadow.win[0].ctl == 0x97) (by decide +kernel)⟩

/-- NotReady; window 5; no buffer; a window with a buffer, the clock on and off. -/
theorem witness_WenCommand : State.reset.port.configured = false ∧ ready.port.configured = true
    ∧ ready.windows[4].buffer = none
    ∧ (doubled.windows[0].buffer.isSome = true ∧ doubled.undisturbed ∧ doubled.clocked)
    ∧ (suspended doubled).windows[0].buffer.isSome = true ∧ (suspended doubled).undisturbed
    ∧ (suspended doubled).power.busclkOn = false :=
  ⟨rfl, rfl, rfl, ⟨rfl, ⟨rfl, rfl, rfl⟩, rfl⟩, rfl, ⟨rfl, rfl, rfl⟩, rfl⟩
theorem witness_WdisCommand : State.reset.port.configured = false
    ∧ (ready.port.configured = true ∧ ready.undisturbed ∧ ready.clocked)
    ∧ (∃ t, exec (.wdis 4) ready = .next t)
    ∧ (suspended ready).port.configured = true ∧ (suspended ready).undisturbed
    ∧ (suspended ready).power.busclkOn = false :=
  ⟨rfl, ⟨rfl, ⟨rfl, rfl, rfl⟩, rfl⟩, ⟨_, launch_undisturbed ⟨rfl, rfl, rfl⟩ _⟩, rfl, ⟨rfl, rfl, rfl⟩, rfl⟩

/-- A window of another format; an Indexed8 window with its table. -/
theorem witness_PsetCommand : doubled.windows[0].format ≠ some .indexed8 ∧ (indexed false).windows[0].format = some .indexed8
    ∧ (indexed false).pend.table[0] = some PendTable.clear := ⟨by decide, rfl, rfl⟩
/-- A window of another format; a deferred flush; an immediate one with the clock on; a dirty and a clean one with it
off. -/
theorem witness_PflushCommand : doubled.windows[0].format ≠ some .indexed8
    ∧ ((dirtied true).windows[0].format = some .indexed8 ∧ (dirtied true).undisturbed
        ∧ (dirtied true).windows[0].palDefer = true)
    ∧ ((dirtied false).windows[0].format = some .indexed8 ∧ (dirtied false).undisturbed ∧ (dirtied false).clocked
        ∧ (dirtied false).windows[0].palDefer = false)
    ∧ ((suspended (dirtied false)).undisturbed ∧ (suspended (dirtied false)).pend.dirty[0] = true
        ∧ (suspended (dirtied false)).power.busclkOn = false)
    ∧ ((suspended (indexed false)).windows[0].format = some .indexed8 ∧ (suspended (indexed false)).undisturbed
        ∧ (suspended (indexed false)).windows[0].palDefer = false ∧ (suspended (indexed false)).pend.dirty[0] = false) :=
  ⟨by decide, ⟨rfl, ⟨rfl, rfl, rfl⟩, rfl⟩, ⟨rfl, ⟨rfl, rfl, rfl⟩, rfl, rfl⟩, ⟨⟨rfl, rfl, rfl⟩, rfl, rfl⟩,
   rfl, ⟨rfl, rfl, rfl⟩, rfl, rfl⟩
theorem witness_ColourReachesPalette :
    (latched (indexed false) 7 0 0 0).undisturbed ∧ (latched (indexed false) 7 0 0 0).clocked
      ∧ (indexed false).windows[0].format = some .indexed8 ∧ (indexed false).windows[0].palDefer = false
      ∧ (indexed false).pend.table[0] = some PendTable.clear
      ∧ ∃ t, exec (.pset 0 255) (latched (indexed false) 7 0 0 0) = .next t ∧ ∃ u, exec (.pflush 0) t = .next u := by
  refine ⟨⟨rfl, rfl, rfl⟩, rfl, rfl, rfl, rfl, ?_⟩
  obtain ⟨t, ht, hp⟩ := next_of_holdsAfter (o := exec (.pset 0 255) (latched (indexed false) 7 0 0 0))
    (p := fun t => holdsAfter (exec (.pflush 0) t) fun _ => true) (by decide +kernel)
  exact ⟨t, ht, (next_of_holdsAfter hp).imp fun _ h => h.1⟩

/-- A waiting slot and one that is not. -/
theorem witness_VwaitCommand : waiting.vsync.waiters[2].state = .waiting ∧ waiting.vsync.waiters[3].state ≠ .waiting := by
  decide
/-- All conditions, and each of them failing. -/
theorem witness_FrameStartEvent :
    (∃ s : State, bit s.engine.regs.ctrl 0 = true ∧ s.power.pixclkOn = true ∧ s.power.busclkOn = true ∧ s.engine.cur = .idle
        ∧ s.port.fault = none)
      ∧ (bit ready.engine.regs.ctrl 0 = false ∧ bit 0x00000001 0 = true) ∧ (suspended ready).power.pixclkOn = false
      ∧ broken.port.fault ≠ none :=
  ⟨⟨{ ready with engine := { ready.engine with regs := { panelRegs with ctrl := 1 } } }, rfl, rfl, rfl, rfl, rfl⟩,
   ⟨rfl, rfl⟩, rfl, by decide⟩

/-- Output on, its interrupt source enabled, and an interrupt pending, with nothing running and the handler's turn
scheduled. -/
def interrupted : State :=
  scheduled { waiting with engine := { waiting.engine with
    intpend := true, regs := { panelRegs with ctrl := 1, inten := 1 } } } [.handler]

/-- Vector VY2's output off (rules R143, R222): an interrupt pending when OUTOFF runs is not served after it. -/
theorem test_no_handler_while_off : holdsAfter (exec .outoff (scheduled interrupted [])) (fun t =>
    !t.engine.intpend && holdsAfter (eventStep .handler t) fun u => decide (u.vsync = waiting.vsync)) = true := by
  decide +kernel

/-- Each condition that fails; all of them met with nothing running and with a command accepted; met in mid-command,
between the dispatch of WDIS and its first micro-step; a running handler; VSYNC_PEND rising and falling. -/
theorem witness_HandlerRun : (ready.vsync.handler = .idle ∧ ready.engine.intpend = false)
    ∧ (interrupted.vsync.handler = .idle ∧ interrupted.engine.intpend = true ∧ interrupted.vsync.maskdepth = 0
        ∧ interrupted.power.busclkOn = true ∧ interrupted.port.fault = none)
    ∧ (interrupted.port.csq = .idle ∧ (accepted interrupted 0).port.csq = .accepted
        ∧ interrupted.env.schedule = [.handler])
    ∧ (∃ ops, (interrupted.withCsq (.running ops)).port.csq = .running ops ∧ ops ≠ [])
    ∧ (∃ (s : State) (ops : List MicroOp), s.vsync.handler = .running ops ∧ s.env.schedule = [.sequencer])
    ∧ (∃ t, eventStep .frameStart { interrupted with engine := { interrupted.engine with intpend := false } } = .next t
        ∧ t.engine.intpend = true)
    ∧ ∃ t, eventStep .handler interrupted = .next t ∧ t.engine.intpend = false :=
  ⟨⟨rfl, rfl⟩, ⟨rfl, rfl, rfl, rfl, rfl⟩, ⟨rfl, rfl, rfl⟩,
   ⟨regUpdateSteps (.win 0 .ctl) (~~~0x00000001#32) 0 ++ [.commitEnable 0 false], rfl, by simp⟩,
   ⟨scheduled { ready with vsync := { ready.vsync with handler := .running [.handlerReturn] } } [.sequencer],
     [.handlerReturn], rfl, rfl⟩, ⟨_, rfl, rfl⟩, _, rfl, rfl⟩
/-- A wait of three ticks, at its first and its last tick. -/
theorem witness_TickAndTimeout : ready.port.fault = none ∧ waiting.vsync.waiters[2].state = .waiting
    ∧ 0 ≤ waiting.vsync.waiters[2].rem.toNat ∧ 3 ≤ waiting.vsync.waiters[2].rem.toNat := by decide +kernel

/-- The execution of a waiting block in which the timebase alone ever steps: nothing else is enabled. -/
def ticking : Execution := { state := fun n => State.ticked n waiting, chosen := fun _ => [.tick] }

/-- What the block holds beside the waiters stands still in that execution. -/
theorem ticking_still (n : Nat) : ((ticking.state n).port = ready.port ∧ (ticking.state n).engine = ready.engine
    ∧ (ticking.state n).env = ready.env) ∧ (ticking.state n).vsync.handler = .idle := by
  refine ⟨?_, State.ticked_handler n waiting⟩
  show (State.ticked n waiting).port = _ ∧ (State.ticked n waiting).engine = _ ∧ (State.ticked n waiting).env = _
  rw [State.ticked_eq]
  exact ⟨rfl, rfl, rfl⟩

theorem ticking_runs : ticking.runs := by
  intro n
  obtain ⟨⟨hp, _, he⟩, _⟩ := ticking_still n
  have hs : (ticking.state n).tick = ticking.state (n + 1) := (State.ticked_succ n waiting).symm
  have hv : (ticking.state n).env.schedule = [] := by rw [he]; rfl
  refine ⟨by simp [ticking], by rw [(ticking_still (n + 1)).1.2.2]; rfl, ?_⟩
  have hf : (ticking.state n).port.fault = none := by rw [hp]; rfl
  rw [← hs]
  show Host.Outcome.next (tickTurn { ticking.state n with env := { (ticking.state n).env with schedule := [] } }) = _
  rw [← hv]
  exact congrArg Host.Outcome.next (if_neg (by show ¬ ((ticking.state n).port.fault.isSome = true); rw [hf]; decide))

theorem ticking_fair : ticking.Fair where
  sequencer n h := by
    unfold State.sequencerEnabled State.commandWaits State.sequencerMayGoOn at h
    rw [(ticking_still n).1.1] at h
    cases h
  handlerStarts n h := by
    have := (h n (le_refl n)).2
    rw [State.handlerMayEnter, (ticking_still n).1.2.1] at this
    simp [ready, Engine.lost] at this
  handlerGoesOn n h := by
    have := (h n (le_refl n)).2
    rw [State.handlerRunning, (ticking_still n).2] at this
    cases this
  ticks n := ⟨n, le_refl n, List.mem_singleton.2 rfl⟩
  scanOut n h := by
    have := (h n (le_refl n)).2
    rw [State.scanEnabled, (ticking_still n).1.2.1] at this
    cases this
  frames n h := by
    have := (h n (le_refl n)).2
    rw [State.scanEnabled, (ticking_still n).1.2.1] at this
    cases this

theorem witness_EveryWaitEnds : ticking.runs ∧ ticking.Fair ∧ (∀ m, 0 ≤ m → (ticking.state m).port.fault = none)
    ∧ (ticking.state 0).vsync.waiters[2].state = .waiting :=
  ⟨ticking_runs, ticking_fair, fun m _ => by rw [(ticking_still m).1.1]; rfl, rfl⟩

theorem witness_SuspCommand : (suspended ready).power.pstate = .suspended
    ∧ ready.power.pstate ≠ .suspended ∧ ready.undisturbed := ⟨rfl, by decide, ⟨rfl, rfl, rfl⟩⟩
/-- Active; a domain that is never ready; one that is, with the calculator refusing and agreeing; a poll that fails as
often as the budget allows before the last. -/
theorem witness_ResmCommand : ready.power.pstate = .active
    ∧ ((suspended ready).power.pstate ≠ .active ∧ (suspended ready).undisturbed
        ∧ (suspended ready).env.domainReady = false)
    ∧ ((readied (suspended ready)).power.pstate ≠ .active ∧ (readied (suspended ready)).undisturbed
        ∧ (readied (suspended ready)).env.domainReady = true
        ∧ (readied (suspended ready)).power.snapshot = some panelRegs
        ∧ (readied (suspended ready)).port.configured = true
        ∧ (readied (suspended ready)).cfg.timingCalc = some (panel.images 1))
    ∧ ({ panel with srcclk := 16000000 } : ConfigBank).timingCalc = none
    ∧ ((suspended ready).power.snapshot = some panelRegs ∧ (suspended ready).cfg.timingCalc = some (panel.images 1)
        ∧ 0 < Config.retryBudget ∧ Config.retryBudget - 1 < Config.retryBudget) :=
  ⟨rfl, ⟨by decide, ⟨rfl, rfl, rfl⟩, rfl⟩, ⟨by decide, ⟨rfl, rfl, rfl⟩, rfl, rfl, rfl, by decide +kernel⟩,
   by decide +kernel, rfl, by decide +kernel, Nat.succ_pos _, Nat.sub_lt (Nat.succ_pos _) Nat.one_pos⟩

/-- A configured window with its buffer is legal. -/
theorem legal_doubled : doubled.Legal where
  unmasked := rfl
  active := fun _ => ⟨rfl, rfl, fun r _ => rfl, by
    constructor
    · rfl
    · decide +kernel
    · decide +kernel
    · decide +kernel
    · intro i b h
      fin_cases i
      · cases h; decide +kernel
      all_goals cases h⟩
  suspended := fun h => by cases h
  settled := .inl rfl
  buffers := by
    intro i b h
    fin_cases i
    · cases h
      exact ⟨by decide +kernel, by decide +kernel, by decide +kernel, by decide +kernel, by decide⟩
    all_goals cases h
  opaqueBase := rfl
  oneSurface := by decide +kernel
  tables := by decide +kernel
  dirtyMarks := by
    intro i
    constructor
    · intro h; fin_cases i <;> cases h
    · rintro ⟨t, ht, _⟩; fin_cases i <;> cases ht

theorem legal_readied : (readied doubled).Legal :=
  ⟨rfl, legal_doubled.active, legal_doubled.suspended, .inl rfl, legal_doubled.buffers, rfl, legal_doubled.oneSurface,
   legal_doubled.tables, legal_doubled.dirtyMarks⟩

theorem witness_SuspendResumeRoundTrip : (readied doubled).Legal ∧ (readied doubled).undisturbed
    ∧ (readied doubled).power.pstate = .active ∧ (readied doubled).timingHolds ∧ (readied doubled).env.domainReady = true
    ∧ ∃ a, exec .susp (readied doubled) = .next a :=
  ⟨legal_readied, ⟨rfl, rfl, rfl⟩, rfl,
   fun _ => ⟨panel.images 1, by decide +kernel, by decide +kernel, by decide, by decide, by decide, by decide, by decide⟩,
   rfl, _, launch_undisturbed ⟨rfl, rfl, rfl⟩ _⟩
theorem witness_ClockBitsStayTogether : ready.power.busclkOn = ready.power.pixclkOn
    ∧ ∃ t, step ready = .next t ∧ t.port.configured = true :=
  ⟨rfl, next_of_holdsAfter (p := fun t => t.port.configured) (by decide +kernel)⟩

theorem witness_FaultIsQuiescent : broken.port.fault = some 0x200
    ∧ (Event.hostWrite .word 0 1 ≠ .reset ∧ ∃ t, eventStep (.hostWrite .word 0 1) broken = .next t)
    ∧ (engineOffset 0x100 ∧ 0x100 % 4 = 0 ∧ 0x100 < 0x5000) ∧ broken.env.schedule = [] :=
  ⟨rfl, ⟨by decide, _, rfl⟩, by decide, rfl⟩
/-- A command that fails a check, one that succeeds, and one of each kind that never faults, with its next state. -/
theorem witness_ResultCodesAndFaults :
    (ready.undisturbed ∧ ∃ t, exec (.wen 3) ready = .next t ∧ decide (t.port.result = .invalidWindow) = true)
      ∧
      (suspended (indexed false)).undisturbed
      ∧ (∃ t, exec (.pset 0 9) (suspended (indexed false)) = .next t)
      ∧ (∃ t, exec (.vwait 3) (suspended ready) = .next t) ∧ (∃ t, exec .susp ready = .next t)
      ∧ (∃ t, exec .resm (suspended ready) = .next t)
      ∧ (∃ t, exec (.pflush 0) (suspended (dirtied true)) = .next t) ∧ (dirtied true).windows[0].palDefer = true
      ∧ (∃ t, exec (.pflush 0) (suspended (indexed false)) = .next t) ∧ (indexed false).pend.dirty[0] = false :=
  ⟨⟨⟨rfl, rfl, rfl⟩, next_of_holdsAfter (p := fun t => decide (t.port.result = .invalidWindow)) (by decide +kernel)⟩,
   ⟨rfl, rfl, rfl⟩, ⟨_, rfl⟩, ⟨_, rfl⟩, ⟨_, launch_undisturbed ⟨rfl, rfl, rfl⟩ _⟩,
   ⟨_, launch_undisturbed ⟨rfl, rfl, rfl⟩ _⟩, ⟨_, launch_undisturbed ⟨rfl, rfl, rfl⟩ _⟩, rfl,
   ⟨_, launch_undisturbed ⟨rfl, rfl, rfl⟩ _⟩, rfl⟩
/-- In mid-command and after the fault. -/
theorem witness_ResetFromAnywhere : (scheduled broken [.reset, .tick]).env.schedule = .reset :: [.tick]
    ∧ (scheduled (accepted ready 0x13000000) [.reset]).env.schedule = .reset :: [] := ⟨rfl, rfl⟩

theorem witness_FullFrame : ∃ s : State, s.engine.cur = .at 0 0 ∧ bit s.engine.regs.ctrl 0 = true
    ∧ s.power.pixclkOn = true ∧ s.power.busclkOn = true ∧ s.port.fault = none
    ∧ 320 = s.engine.regs.timsize.toNat % 4096 + 1 ∧ 480 = s.engine.regs.timsize.toNat / 65536 % 4096 + 1 :=
  ⟨{ ready with engine := { ready.engine with regs := { panelRegs with ctrl := 1 }, cur := .at 0 0 } },
   rfl, rfl, rfl, rfl, rfl, by decide +kernel, by decide +kernel⟩
/-- Two windows over each other: window 0 of vector VW1, and a window 1 of one pixel at its last corner, of the same
format, with this word in its BLEND register and the key of vector VK5. -/
def layered (blend : Word) : State :=
  { doubled with engine := { doubled.engine with regs := { doubleRegs with
      win := doubleRegs.win.set 1
        { WinRegs.zero with ctl := 0x95, posA := 0x013F01DF, posB := 0x013F01DF, blend := blend, key := 0x00FF03FF } } } }

/-- A pixel that no window covers; the last pixel of window 0 with nothing above it; the same pixel under window 1 with
key and alpha off, with the key on and met, and with alpha on. -/
theorem witness_ComposedPixel : (∀ j : Win, ready.engine.regs.win[j].covers 0 0 = false)
    ∧ (modeFormat doubled.engine.regs.win[(0 : Win)].ctl = some .rgb565
        ∧ doubled.engine.regs.win[(0 : Win)].covers 319 479 = true
        ∧ ∀ j : Win, (0 : Win) < j → doubled.engine.regs.win[j].covers 319 479 = false)
    ∧ (modeFormat (layered 0).engine.regs.win[(1 : Win)].ctl = some .rgb565
        ∧ (layered 0).engine.regs.win[(1 : Win)].covers 319 479 = true
        ∧ (layered 0).engine.regs.win[(1 : Win)].covers 318 479 = false
        ∧ bit (layered 0).engine.regs.win[(1 : Win)].blend 0 = false
        ∧ bit (layered 0).engine.regs.win[(1 : Win)].blend 1 = false)
    ∧ (bit (layered 0xFF03).engine.regs.win[(1 : Win)].blend 0 = true
        ∧ bit (layered 0xFF03).engine.regs.win[(1 : Win)].blend 1 = true
        ∧ bits (layered 0xFF03).engine.regs.win[(1 : Win)].blend 15 8 = 255)
    ∧ (∀ src, keyHits 0x00FF03FF .rgb565 0xF81F src) ∧ ∀ src, ¬ keyHits 0x00FF03FF .rgb565 0xF83F src :=
  ⟨by decide +kernel, by decide +kernel, by decide +kernel, by decide +kernel,
   fun src => by show _ ∧ _; decide +kernel, fun src => by show ¬ (_ ∧ _); decide +kernel⟩
/-- The last value of RGB565, the last palette index, and a word that the palette memory holds. -/
theorem witness_PixelDecode : 65535 < 65536 ∧ 255 = (255 : Fin Config.paletteSize).val
    ∧ 0x00123456 = (((Engine.lost 0).actpal[(0 : Win)].words.set 255 (some 0x00123456))[255]).getD 0 := by decide +kernel

/-- The last pixel of the last line of vector VW1's window; and of a window whose buffer ends with the address space. -/
theorem witness_FetchStaysInBuffer :
    ∃ s : State, bits s.engine.regs.win[(0 : Win)].size 15 0 = doubleWindow.lineStride
      ∧ doubleWindow.width * Format.rgb565.bpp ≤ doubleWindow.lineStride
      ∧ (319 < doubleWindow.width ∧ 479 < doubleWindow.height)
      ∧ doubleWindow.height * doubleWindow.lineStride < Config.memorySize
      ∧ s.engine.actStart[(0 : Win)].toNat + doubleWindow.height * doubleWindow.lineStride = Config.memorySize
      ∧ s.engine.actEnd[(0 : Win)]
          = addressWord (s.engine.actStart[(0 : Win)].toNat + doubleWindow.height * doubleWindow.lineStride) :=
  ⟨{ doubled with engine := { doubled.engine with
      actStart := doubled.engine.actStart.set 0 0xFFFB5000
      actEnd := doubled.engine.actEnd.set 0 0 } },
   by decide +kernel, by decide +kernel, by decide +kernel, by decide +kernel, by decide +kernel, by decide +kernel⟩

/-- Rule R83's clause: the carve-outs aligned, the active start one line into the buffer. -/
theorem witness_FetchStaysInBuffer_aligned : platformObligations panel (fun i => i = 0)
    ∧ doubleWindow.lineStride = doubleWindow.vwidth * Format.rgb565.bpp
    ∧ 0x20000280 = panel.fbBase[(0 : Win)].toNat + 1 * doubleWindow.lineStride :=
  ⟨platform_panel _, by decide +kernel, by decide +kernel⟩

/-- A word that ends at the top of memory, and a byte just below it; a misaligned write whose last byte is the topmost,
its byte steps out of order. -/
theorem witness_MemoryReadWrite : (4294967292 + 4 ≤ Config.memorySize
    ∧ 4294967291 < Config.memorySize ∧ 4294967291 < 4294967292)
    ∧ [Event.memWrite (.byte 0xFFFFFFFF) 2, .memWrite (.byte 0xFFFFFFFE) 1].Perm (byteWrites 0xFFFFFFFE [1, 2])
    ∧ (0xFFFFFFFE : Word).toNat + 2 ≤ Config.memorySize := ⟨by decide, .swap _ _ _, by decide⟩
/-- A scheduled host write of the topmost word. -/
theorem witness_MemoryStaysCanonical : (scheduled ready [.memWrite (.word 0x3FFFFFFF) 5]).env.mem.wf = true
    ∧ ∃ t, step (scheduled ready [.memWrite (.word 0x3FFFFFFF) 5]) = .next t ∧ decide (t.env.mem.length = 4) = true :=
  ⟨rfl, next_of_holdsAfter (p := fun t => decide (t.env.mem.length = 4)) (by decide +kernel)⟩
theorem witness_AgentsStayApart : ready.agentsApart ∧ ∃ t, step ready = .next t ∧ t.port.configured = true :=
  ⟨⟨fun _ h => (by cases h), fun _ h => (by cases h)⟩,
   next_of_holdsAfter (p := fun t => t.port.configured) (by decide +kernel)⟩
theorem witness_CommandsKeepLegal : doubled.Legal ∧ doubled.undisturbed
    ∧ ∃ t, exec (.wdis 0) doubled = .next t ∧ decide (t.port.fault = none) = true :=
  ⟨legal_doubled, ⟨rfl, rfl, rfl⟩, next_of_holdsAfter (p := fun t => decide (t.port.fault = none)) (by decide +kernel)⟩
/-- Between commands, and a step that runs a command with a TICK inside. -/
theorem witness_EveryStepKeepsSteady : doubled.Steady ∧ (scheduled (accepted doubled 0x13000000) [.sequencer, .tick]).Steady
    ∧ ∃ t, step (scheduled (accepted doubled 0x13000000) [.sequencer, .tick]) = .next t
      ∧ decide (t.port.csq = .idle) = true := by
  have h : ∀ c : Csq, c = .idle ∨ c = .accepted → ∀ w es,
      (scheduled { doubled with port := { doubled.port with cmd := w, csq := c } } es).Steady :=
    fun c hc _ _ => ⟨fun h => (by cases h), fun _ => ⟨hc, rfl, .inl ⟨rfl, rfl, rfl, fun _ _ => .inl rfl⟩⟩⟩
  exact ⟨h .idle (.inl rfl) _ [], h .accepted (.inr rfl) _ _,
    next_of_holdsAfter (p := fun t => decide (t.port.csq = .idle)) (by decide +kernel)⟩
/-- A command that ends, with a choice scheduled in between. -/
theorem witness_EveryCommandEnds : (scheduled ready [.tick]).vsync.handler = .idle
    ∧ ∃ t, exec .outoff (scheduled ready [.tick]) = .next t ∧ decide (t.port.csq = .idle) = true :=
  ⟨rfl, next_of_holdsAfter (p := fun t => decide (t.port.csq = .idle)) (by decide +kernel)⟩
theorem witness_CommandFrame : doubled.undisturbed ∧ ∃ t, exec (.wen 0) doubled = .next t
    ∧ decide (t.port.fault = none) = true :=
  ⟨⟨rfl, rfl, rfl⟩, next_of_holdsAfter (p := fun t => decide (t.port.fault = none)) (by decide +kernel)⟩

end Sys2Proof.Tests
end

-- ==== The command port: which command a step runs ====
section
/-! PROOFS. The step on an accepted command (rules R9, R23, R100): when the sequencer may take its first micro-step, what
it starts, and that `step` gives it the turn. -/

namespace Sys2Proof.Machine

/-! ### When an accepted command waits for its first micro-step -/

theorem State.handlerRunning_eq_false_iff (s : State) : s.handlerRunning = false ↔ s.vsync.handler = .idle := by
  unfold State.handlerRunning
  cases s.vsync.handler with
  | idle => simp
  | running ops => simp

theorem State.sequencerFree_iff (s : State) : s.sequencerFree = true ↔ s.free := by
  simp [State.sequencerFree, State.free, State.faulted, State.handlerRunning_eq_false_iff]

theorem State.commandWaits_iff (s : State) : s.commandWaits = true ↔ s.port.csq = .accepted ∧ s.free := by
  simp [State.commandWaits, State.sequencerFree_iff]

/-! ### What the sequencer starts -/

theorem startCommand_of_decodes {s : State} {i : Instr} (h : decodeWord s.port.cmd = .ok i) :
    startCommand s = exec i s := by
  simp [startCommand, h]

/-! ### Whose turn the step is -/

/-- With nothing scheduled, an accepted command goes before whatever else could run (log entry 2). -/
theorem step_of_commandWaits {s : State} (hw : s.commandWaits = true) (hs : s.env.schedule = []) :
    step s = startCommand s := by
  obtain ⟨-, hfault, -⟩ := s.commandWaits_iff.mp hw
  simp [step, hs, hfault, hw]

theorem step_sequencer_of_commandWaits {s : State} {es : List Event} (hw : s.commandWaits = true)
    (hs : s.env.schedule = .sequencer :: es) :
    step s = startCommand { s with env := { s.env with schedule := es } } := by
  simp [step, hs, hw]

/-- Settles O5: an accepted command that nothing holds up has the turn in both kinds of schedule, and what it starts is
the command that CMD decodes to; taking the choice off the schedule leaves CMD alone. -/
theorem stepRunsDecodedCommand : Obligations.StepRunsDecodedCommand := by
  intro s i hcsq hfault hidle hdecode
  have hw : s.commandWaits = true := s.commandWaits_iff.mpr ⟨hcsq, hfault, hidle⟩
  constructor
  · intro hs
    calc step s = startCommand s := step_of_commandWaits hw hs
      _ = exec i s := startCommand_of_decodes hdecode
  · intro es hs
    calc step s = startCommand { s with env := { s.env with schedule := es } } := step_sequencer_of_commandWaits hw hs
      _ = exec i { s with env := { s.env with schedule := es } } := startCommand_of_decodes hdecode

end Sys2Proof.Machine
end

-- ==== What one step can do ====
section
/-! PROOFS. What a command's first micro-step, a micro-step and a host access can do, each said once; and the induction over
the choices of one `step`, so that an invariant is proved of single micro-steps and single choices only. -/

namespace Sys2Proof.Machine

/-! ### The first micro-step of a command (rules R100, R102) -/

/-- The states in which a command can end in its first micro-step: an answer or a refusal, PSET's store, VWAIT's armed
slot. -/
inductive EndsAtOnce (s : State) : State → Prop
  | answered (r : Result) (v : Word) : EndsAtOnce s (s.finish r v)
  | stored (i : Win) (k : Fin Config.paletteSize) (v : Word) :
      EndsAtOnce s (State.finish { s with pend := s.pend.store i k v } .ok 0)
  | armed (k : Fin Config.nslot) (timeout v : Word) : EndsAtOnce s ((s.armSlot k timeout).finish .ok v)

/-- The micro-steps that a command can lay out: those of SUSP and RESM, or a body. -/
inductive LaysOut (s : State) : List MicroOp → Prop
  | body {steps : List MicroOp} (h : Body 0 steps) : LaysOut s steps
  | susp (h : s.power.pstate ≠ .suspended) : LaysOut s suspSteps
  | resm (h : s.power.pstate ≠ .active) : LaysOut s resmSteps

/-- How a command starts: it ends at once, or it lays out micro-steps and runs. -/
def Starts (s : State) (o : Host.Outcome State Fault Refusal) : Prop :=
  (∃ u, o = .next u ∧ EndsAtOnce s u) ∨ ∃ steps, o = launch s steps ∧ LaysOut s steps

theorem Starts.answered (s : State) (r : Result) (v : Word) : Starts s (.next (s.finish r v)) :=
  .inl ⟨_, rfl, .answered r v⟩

theorem Starts.body (s : State) {steps : List MicroOp} (h : Body 0 steps) : Starts s (launch s steps) :=
  .inr ⟨_, rfl, .body h⟩

theorem Starts.onWindow {s : State} (win : Nat) {f : Win → Host.Outcome State Fault Refusal}
    (h : ∀ i, Starts s (f i)) : Starts s (onWindow s win f) := by
  unfold Machine.onWindow
  cases windowIndex win with
  | none => exact .answered s .invalidWindow 0
  | some i => exact h i

theorem Starts.onIndexed {s : State} (i : Win) {o : Host.Outcome State Fault Refusal} (h : Starts s o) :
    Starts s (onIndexed s i o) := by
  unfold Machine.onIndexed
  split
  · exact h
  · exact .answered s .invalidFormat 0

theorem Starts.ite {s : State} {c : Prop} [Decidable c] {o p : Host.Outcome State Fault Refusal} (ho : Starts s o)
    (hp : Starts s p) : Starts s (if c then o else p) := by
  split
  · exact ho
  · exact hp

/-- Micro-steps of a body that hold no mask, closed by the command's last micro-step. -/
theorem Body.of_calm {ops : List MicroOp} {last : MicroOp} (hl : last.endsCommand = true)
    (h : ∀ op ∈ ops, op.inBody = true) : Body 0 (ops ++ [last]) := (Body.last hl).append ops h

/-- A `Masked` block of body micro-steps in front of a body (rule R41). -/
theorem Body.masked {n : Nat} {body rest : List MicroOp} (h : Body n rest) (hb : ∀ op ∈ body, op.inBody = true) :
    Body n (maskedSteps body ++ rest) := by
  have hleave : Body (n + 1) (.maskLeave :: rest) := .leave h
  have he : maskedSteps body ++ rest = .maskEnter :: (body ++ .maskLeave :: rest) := by simp [maskedSteps]
  rw [he]
  exact .enter (hleave.append body hb)

theorem body_timingSteps (t : TimingImage) : Body 0 (timingSteps t) :=
  Body.of_calm rfl (by simp [timingWrites, regUpdateSteps, regWriteSteps, MicroOp.inBody, MicroOp.calm])

theorem body_outonSteps : Body 0 outonSteps :=
  Body.of_calm (ops := regWriteSteps .inten 1 ++ regUpdateSteps .ctrl 0xFFFFFFFF 1) rfl
    (by simp [regUpdateSteps, regWriteSteps, MicroOp.inBody, MicroOp.calm])

theorem body_outoffSteps : Body 0 outoffSteps :=
  Body.of_calm (ops := regUpdateSteps .ctrl (~~~1) 0) rfl (by simp [regUpdateSteps, MicroOp.inBody, MicroOp.calm])

theorem body_enableSteps (i : Win) (keep set : Word) (on : Bool) :
    Body 0 (regUpdateSteps (.win i .ctl) keep set ++ [.commitEnable i on]) :=
  Body.of_calm rfl (by simp [regUpdateSteps, MicroOp.inBody, MicroOp.calm])

theorem body_pflushSteps (i : Win) (deferred : Bool) : Body 0 (pflushSteps i deferred) := by
  cases deferred with
  | true => exact Body.of_calm (ops := [.requestFlush i]) rfl (by simp [MicroOp.inBody])
  | false => exact Body.masked (.last rfl) (by simp [MicroOp.inBody, MicroOp.calm])

theorem inBody_bufselSteps (sh : EngineRegs) (i : Win) (half : Bool) :
    ∀ op ∈ bufselSteps sh i half, op.inBody = true := by
  unfold bufselSteps
  split <;> simp [regUpdateSteps, MicroOp.inBody, MicroOp.calm]

theorem body_wpanSteps (s : State) (i : Win) (p : PanPlan) (y : Nat) : Body 0 (wpanSteps s i p y) := by
  refine Body.masked (.last rfl) fun op hop => ?_
  simp only [List.mem_append] at hop
  rcases hop with (((h | h) | h) | h) | h
  case inl.inr => exact inBody_bufselSteps _ _ _ _ h
  all_goals
    simp only [regUpdateSteps, regWriteSteps, List.mem_singleton] at h
    subst h; rfl

theorem inBody_zeroFillSteps (d : Window) (f : Format) (l : Layout) (base : Word) :
    ∀ op ∈ zeroFillSteps d f l base, op.inBody = true := by
  unfold zeroFillSteps
  split <;> simp [MicroOp.inBody]

theorem inBody_programSteps (i : Win) (f : Format) (l : Layout) (a : WcfgArgs) (se : Bool) (b : Option Blend) :
    ∀ op ∈ programSteps i f l a se b, op.inBody = true := by
  unfold programSteps
  split <;> split <;> simp [regWriteSteps, MicroOp.inBody, MicroOp.calm]

theorem body_wcfgSteps (s : State) (i : Win) (f : Format) (l : Layout) (se db bl pd : Bool) :
    Body 0 (wcfgSteps s i f l se db bl pd) := by
  have hprogram := (Body.last (op := .commitWindow i (windowRecord f s.wcfgArgs l s.cfg.fbBase[i] se db bl pd)) rfl).append
    _ (inBody_programSteps i f l s.wcfgArgs se (if bl then some s.wcfgArgs.blendRecord else none))
  have haddress : Body 0 (addressSteps i l s.cfg.fbBase[i] db ++ _) := Body.masked hprogram (by
    split <;> simp [regUpdateSteps, regWriteSteps, MicroOp.inBody, MicroOp.calm])
  have hall := haddress.append _ (inBody_zeroFillSteps s.windows[i] f l s.cfg.fbBase[i])
  unfold wcfgSteps
  rw [List.append_assoc, List.append_assoc]
  exact hall

/-- What every command does first (rule R100). -/
theorem exec_starts (i : Instr) (s : State) : Starts s (exec i s) := by
  cases i with
  | timing =>
    refine .ite (.answered s _ _) ?_
    cases s.cfg.timingCalc with
    | none => exact .answered s .invalidTiming 0
    | some t => exact .body s (body_timingSteps t)
  | outon => exact .ite (.body s body_outonSteps) (.answered s _ _)
  | outoff => exact .body s body_outoffSteps
  | wcfg win fmt se db bl pd =>
    refine .ite (.onWindow win fun i => ?_) (.answered s _ _)
    cases wcfgCheck s.cfg i fmt db bl s.wcfgArgs with
    | error e => exact .answered s e 0
    | ok p => exact .body s (body_wcfgSteps s i p.1 p.2 se db bl pd)
  | wpan win =>
    refine .ite (.onWindow win fun i => ?_) (.answered s _ _)
    cases s.windows[i].panPlan s.panArg with
    | none => exact .answered s .invalidPan 0
    | some p => exact .body s (body_wpanSteps s i p s.panArg)
  | wen win =>
    exact .ite (.onWindow win fun i => .ite (.body s (body_enableSteps i _ _ _)) (.answered s _ _)) (.answered s _ _)
  | wdis win => exact .ite (.onWindow win fun i => .body s (body_enableSteps i _ _ _)) (.answered s _ _)
  | pset win idx => exact .onWindow win fun i => .onIndexed i (.inl ⟨_, rfl, .stored i _ _⟩)
  | pflush win => exact .onWindow win fun i => .onIndexed i (.body s (body_pflushSteps i _))
  | vwait slot => exact .ite (.answered s _ _) (.inl ⟨_, rfl, .armed _ _ _⟩)
  | susp =>
    show Starts s (execSusp s)
    unfold execSusp
    split
    · exact .answered s _ _
    · exact .inr ⟨_, rfl, .susp ‹_›⟩
  | resm =>
    show Starts s (execResm s)
    unfold execResm
    split
    · exact .answered s _ _
    · exact .inr ⟨_, rfl, .resm ‹_›⟩

/-- What the sequencer does first with an accepted word, one that does not decode among them (rule R109). -/
theorem startCommand_starts (s : State) : Starts s (startCommand s) := by
  unfold startCommand
  cases decodeWord s.port.cmd with
  | ok i => exact exec_starts i s
  | error e => exact .answered s .illegalCommand 0

/-! ### Every micro-step -/

/-- What no micro-step touches: what the host wrote, the CFG bank, FRAME, the platform's input and the choices still to
come; and CONFIGURED is not cleared. -/
structure HostSideKept (s t : State) : Prop where
  cmd : t.port.cmd = s.port.cmd
  args : t.port.args = s.port.args
  latch : t.port.latch = s.port.latch
  overrun : t.port.overrun = s.port.overrun
  configured : s.port.configured = true → t.port.configured = true
  cfg : t.cfg = s.cfg
  frame : t.frame = s.frame
  schedule : t.env.schedule = s.env.schedule

theorem HostSideKept.of_eq {s t : State} (hp : t.port = s.port) (hc : t.cfg = s.cfg) (hf : t.frame = s.frame)
    (he : t.env.schedule = s.env.schedule) : HostSideKept s t :=
  ⟨by rw [hp], by rw [hp], by rw [hp], by rw [hp], by rw [hp]; exact id, hc, hf, he⟩

theorem microStep_hostSide (op : MicroOp) (s : State) : HostSideKept s (microStep op s).1 := by
  cases op with
  | regHardware r v =>
    show HostSideKept s (microRegHardware s r v).1
    unfold microRegHardware
    split
    · exact .of_eq rfl rfl rfl rfl
    · exact ⟨rfl, rfl, rfl, rfl, id, rfl, rfl, rfl⟩
  | palWrite i k v =>
    show HostSideKept s (microPalWrite s i k v).1
    unfold microPalWrite
    split
    · exact .of_eq (by simp) (by simp) (by simp) (by simp)
    · exact ⟨rfl, rfl, rfl, rfl, id, rfl, rfl, rfl⟩
  | zeroFill a n => cases n <;> exact .of_eq rfl rfl rfl rfl
  | pollReady =>
    show HostSideKept s (microPoll s).1
    unfold microPoll
    split <;> exact .of_eq rfl rfl rfl rfl
  | rederive =>
    show HostSideKept s (microRederive s).1
    unfold microRederive
    split
    · split <;> exact .of_eq rfl rfl rfl rfl
    · exact .of_eq rfl rfl rfl rfl
  | commitTiming d => exact ⟨rfl, rfl, rfl, rfl, fun _ => rfl, rfl, rfl, rfl⟩
  | _ => exact ⟨rfl, rfl, rfl, rfl, id, rfl, rfl, rfl⟩

/-- A turn of the sequencer is a micro-step and a new value of CSQ. -/
theorem sequencerStep_eq (op : MicroOp) (rest : List MicroOp) (s : State) :
    ∃ c, sequencerStep op rest s = (microStep op s).1.withCsq c := by
  unfold sequencerStep
  rcases microStep op s with ⟨u, first | instead | _ | _⟩
  · exact ⟨_, rfl⟩
  · exact ⟨_, rfl⟩
  · exact ⟨_, rfl⟩
  · exact ⟨u.port.csq, rfl⟩

/-- A turn of the running handler is a micro-step and a new value of IH. -/
theorem handlerStep_eq (op : MicroOp) (rest : List MicroOp) (s : State) :
    ∃ h, handlerStep op rest s = (microStep op s).1.withHandler h := by
  unfold handlerStep
  rcases microStep op s with ⟨u, first | instead | _ | _⟩
  · exact ⟨_, rfl⟩
  · exact ⟨_, rfl⟩
  · exact ⟨_, rfl⟩
  · exact ⟨u.vsync.handler, rfl⟩

theorem sequencerStep_hostSide (op : MicroOp) (rest : List MicroOp) (s : State) :
    HostSideKept s (sequencerStep op rest s) := by
  obtain ⟨c, hc⟩ := sequencerStep_eq op rest s
  obtain ⟨h1, h2, h3, h4, h5, h6, h7, h8⟩ := microStep_hostSide op s
  rw [hc]
  exact ⟨h1, h2, h3, h4, h5, h6, h7, h8⟩

theorem handlerStep_hostSide (op : MicroOp) (rest : List MicroOp) (s : State) :
    HostSideKept s (handlerStep op rest s) := by
  obtain ⟨c, hc⟩ := handlerStep_eq op rest s
  obtain ⟨h1, h2, h3, h4, h5, h6, h7, h8⟩ := microStep_hostSide op s
  rw [hc]
  exact ⟨h1, h2, h3, h4, h5, h6, h7, h8⟩

/-- What one step with nothing scheduled can be: a micro-step of the handler, one of the sequencer, or a TICK. -/
theorem autoStep_cases {s t : State} (h : autoStep s = some t) : s.port.fault = none
    ∧ ((∃ op rest, s.vsync.handler = .running (op :: rest) ∧ t = handlerStep op rest s)
      ∨ (s.vsync.handler = .idle ∧ ∃ op rest, s.port.csq = .running (op :: rest)
          ∧ (t = s.tick ∨ t = sequencerStep op rest s))) := by
  unfold autoStep at h
  split at h
  · cases h
  · rename_i hf
    have hf : s.port.fault = none := by simpa [State.faulted] using hf
    refine ⟨hf, ?_⟩
    split at h
    · rename_i op rest hh; cases h; exact .inl ⟨op, rest, hh, rfl⟩
    · cases h
    · rename_i hh
      split at h
      · rename_i op rest hq
        cases h
        refine .inr ⟨hh, op, rest, hq, ?_⟩
        split
        · exact .inl rfl
        · exact .inr rfl
      · cases h

/-- What the handler's turn can be: nothing, the entry, or a micro-step (rules R261, R262). -/
theorem handlerTurn_cases (s : State) : handlerTurn s = s
    ∨ (s.port.fault = none ∧ s.vsync.handler = .idle ∧ s.handlerMayEnter = true ∧ handlerTurn s = s.handlerEnter)
    ∨ ∃ op rest, s.port.fault = none ∧ s.vsync.handler = .running (op :: rest) ∧ handlerTurn s = handlerStep op rest s := by
  unfold handlerTurn
  split
  · exact .inl rfl
  · rename_i hf
    have hf : s.port.fault = none := by simpa [State.faulted] using hf
    split
    · rename_i hh
      split
      · rename_i he; exact .inr (.inl ⟨hf, hh, he, rfl⟩)
      · exact .inl rfl
    · exact .inl rfl
    · rename_i op rest hh; exact .inr (.inr ⟨op, rest, hf, hh, rfl⟩)

/-! ### Host accesses -/

/-- A host read that has a step raises the fault or emits a value (rule R78). -/
theorem hostRead_next {s t : State} {w : Width} {o : Nat} (h : s.hostRead w o = .next t) :
    t = s.raise o ∨ ∃ x, t = s.emit x := by
  unfold State.hostRead at h
  (repeat' split at h) <;> cases h
  · exact .inr ⟨_, rfl⟩
  · exact .inl rfl
  · exact .inr ⟨_, rfl⟩

/-- A host write that has a step is dropped, raises the fault, or writes the control domain (rule R79). -/
theorem hostWrite_next {s t : State} {w : Width} {o : Nat} {v : Word} (h : s.hostWrite w o v = .next t) :
    t = s ∨ (s.faulted = false ∧ t = s.raise o) ∨ t = s.writePort o v := by
  unfold State.hostWrite at h
  (repeat' split at h) <;> cases h
  · exact .inl rfl
  · exact .inr (.inl ⟨by simpa using ‹¬s.faulted = true›, rfl⟩)
  · exact .inr (.inr rfl)

/-- What a write to the control domain can be (rule R79 (a), (d), (e)). -/
theorem writePort_cases (s : State) (o : Nat) (v : Word) : s.writePort o v = s
    ∨ (ControlReg.ofOffset o = some .cmd ∧ s.writePort o v = s.doorbell v)
    ∨ (s.faulted = false ∧ ((∃ k : Fin 6, s.writePort o v = { s with port := { s.port with args := s.port.args.set k v } })
      ∨ s.writePort o v = { s with cfg := { s.cfg with srcclk := v } }
      ∨ (s.port.configured = false ∧ ∃ r, s.writePort o v = { s with cfg := s.cfg.put r v }))) := by
  unfold State.writePort
  split
  · split
    · exact .inl rfl
    · rename_i hr; exact .inr (.inl ⟨hr, rfl⟩)
    · rename_i r hcmd hr
      split
      · exact .inl rfl
      · rename_i hf
        have hf : s.faulted = false := by simpa using hf
        unfold State.writeControl
        split
        · exact absurd rfl hcmd
        · exact .inr (.inr ⟨hf, .inl ⟨_, rfl⟩⟩)
        · exact .inr (.inr ⟨hf, .inr (.inl rfl)⟩)
        · split
          · exact .inl rfl
          · rename_i hc; exact .inr (.inr ⟨hf, .inr (.inr ⟨by simpa using hc, _, rfl⟩)⟩)
  · exact .inl rfl

/-- The doorbell touches the port alone (rule R101). -/
theorem doorbell_cases (s : State) (w : Word) :
    s.doorbell w = { s with port := { s.port with overrun := true } }
      ∨ (s.port.csq = .idle ∧ s.port.fault = none ∧ s.doorbell w = s.acceptCommand w) := by
  unfold State.doorbell
  split
  · exact .inl rfl
  · rename_i h
    simp only [Bool.or_eq_true, not_or, State.faulted, State.busy] at h
    refine .inr ⟨?_, by simpa using h.2, rfl⟩
    cases hq : s.port.csq <;> simp [hq] at h ⊢

/-! ### Invariants of a step -/

/-- A property of states that every choice in `ok`, every step taken with nothing scheduled and the start of every command
keep, and that does not depend on the choices to come but that they are all in `ok`. -/
structure StepInvariant (ok : Event → Prop) (P : State → Prop) : Prop where
  scheduled : ∀ (s : State) (es : List Event), (∀ e ∈ es, ok e) → P s → P { s with env := { s.env with schedule := es } }
  turned : ∀ (s : State) (n : Nat), P s → P { s with env := { s.env with turn := n } }
  event : ∀ (e : Event) (s t : State), ok e → P s → eventStep e s = .next t → P t
  auto : ∀ s t : State, P s → autoStep s = some t → P t
  ends : ∀ s t : State, s.port.csq = .accepted → s.free → P s → EndsAtOnce s t → P t
  launches : ∀ (s : State) (steps : List MicroOp), s.port.csq = .accepted → s.free → P s → LaysOut s steps →
    P (s.withCsq (.running steps))

namespace StepInvariant

variable {ok : Event → Prop} {P : State → Prop}

theorem settleDown (h : StepInvariant ok P) (n : Nat) {s : State} (hs : P s) : P (settleDown n s) := by
  induction n generalizing s with
  | zero => exact hs
  | succ n ih =>
    cases ha : autoStep s with
    | none => rw [settleDown_none ha]; exact hs
    | some t => rw [settleDown_succ ha]; exact ih (h.auto s t hs ha)

theorem complete (h : StepInvariant ok P) {s : State} (hs : P s) : P (complete s) := h.settleDown _ hs

theorem runScheduled (h : StepInvariant ok P) (es : List Event) {s t : State} (hok : ∀ e ∈ es, ok e) (hs : P s)
    (hr : runScheduled es s = .next t) : P t := by
  induction es generalizing s with
  | nil => cases hr; exact h.complete hs
  | cons e es ih =>
    have hes : ∀ e ∈ es, ok e := fun e' he' => hok e' (by simp [he'])
    unfold Machine.runScheduled at hr
    split at hr
    · split at hr
      · rename_i he
        exact ih hes (h.event e _ _ (hok e (by simp)) (h.scheduled s es hes hs) he) hr
      · cases hr
      · cases hr
    · cases hr; exact hs

theorem startCommand (h : StepInvariant ok P) {s t : State} (hw : s.commandWaits = true)
    (hok : ∀ e ∈ s.env.schedule, ok e) (hs : P s) (hc : startCommand s = .next t) : P t := by
  obtain ⟨hq, hfree⟩ := s.commandWaits_iff.mp hw
  rcases startCommand_starts s with ⟨u, hu, he⟩ | ⟨steps, hl, hlay⟩
  · rw [hu] at hc
    cases hc
    exact h.ends s _ hq hfree hs he
  · rw [hl] at hc
    exact h.runScheduled _ hok (h.launches s steps hq hfree hs hlay) hc

/-- An invariant holds after a step: of a whole command with the choices between its micro-steps, of one choice, or of
what goes on with nothing scheduled. -/
theorem step (h : StepInvariant ok P) (hidle : ∀ n, ok (idleTurn n)) {s t : State}
    (hok : ∀ e ∈ s.env.schedule, ok e) (hs : P s) (hst : step s = .next t) : P t := by
  unfold Machine.step at hst
  split at hst
  · split at hst
    · cases hst
    · split at hst
      · exact h.startCommand ‹_› hok hs hst
      · split at hst
        · cases hst; exact h.complete hs
        · exact h.event _ _ t (hidle _) (h.turned s _ hs) hst
  · rename_i e es hsched
    rw [hsched] at hok
    have hes : ∀ e ∈ es, ok e := fun e' he' => hok e' (by simp [he'])
    split at hst
    · rename_i hc
      simp only [Bool.and_eq_true] at hc
      exact h.startCommand (by exact hc.2) hes (h.scheduled s es hes hs) hst
    · exact h.event e _ t (hok e (by simp)) (h.scheduled s es hes hs) hst

end StepInvariant

end Sys2Proof.Machine
end

-- ==== The configuration lock ====
section
/-! PROOFS. Once CONFIGURED is 1, the CFG bank and the carve-outs are written by nothing but a reset (rules R30, R79, R141). -/

namespace Sys2Proof.Machine

/-- Configured, with the CFG bank and the carve-outs of `c`, whatever SRCCLK holds, and no reset to come. -/
structure State.LockedTo (c : ConfigBank) (s : State) : Prop where
  configured : s.port.configured = true
  cfg : s.cfg = { c with srcclk := s.cfg.srcclk }
  noReset : Event.reset ∉ s.env.schedule

theorem State.LockedTo.of_same {c : ConfigBank} {s t : State} (h : s.LockedTo c)
    (hc : t.port.configured = s.port.configured) (hcfg : t.cfg = s.cfg) (he : t.env.schedule = s.env.schedule) :
    t.LockedTo c :=
  ⟨hc.trans h.configured, by rw [hcfg]; exact h.cfg, by rw [he]; exact h.noReset⟩

theorem State.LockedTo.of_hostSide {c : ConfigBank} {s t : State} (h : s.LockedTo c) (hk : HostSideKept s t) :
    t.LockedTo c :=
  ⟨hk.configured h.configured, by rw [hk.cfg]; exact h.cfg, by rw [hk.schedule]; exact h.noReset⟩

/-- The one host write that gets past the lock is SRCCLK's. -/
theorem State.LockedTo.writePort {c : ConfigBank} {s : State} (h : s.LockedTo c) (o : Nat) (v : Word) :
    (s.writePort o v).LockedTo c := by
  rcases writePort_cases s o v with hw | ⟨-, hw⟩ | ⟨-, ⟨k, hw⟩ | hw | ⟨hopen, -⟩⟩
  · rw [hw]; exact h
  · rw [hw]
    rcases doorbell_cases s v with hd | ⟨-, -, hd⟩ <;> rw [hd] <;> exact h.of_same rfl rfl rfl
  · rw [hw]; exact h.of_same rfl rfl rfl
  · rw [hw]; exact ⟨h.configured, by rw [h.cfg], h.noReset⟩
  · rw [h.configured] at hopen; cases hopen

theorem eventStep_lockedTo {c : ConfigBank} {e : Event} {s t : State} (hr : e ≠ .reset) (h : s.LockedTo c)
    (he : eventStep e s = .next t) : t.LockedTo c := by
  cases e with
  | sequencer =>
    cases he
    rcases sequencerTurn_cases s with hs | ⟨op, rest, -, -, -, hs⟩ <;> rw [hs]
    · exact h
    · exact h.of_hostSide (sequencerStep_hostSide op rest s)
  | handler =>
    cases he
    rcases handlerTurn_cases s with hs | ⟨-, -, -, hs⟩ | ⟨op, rest, -, -, hs⟩ <;> rw [hs]
    · exact h
    · exact h.of_same rfl rfl rfl
    · exact h.of_hostSide (handlerStep_hostSide op rest s)
  | frameStart =>
    cases he
    unfold frameTurn
    split
    · exact h.of_same rfl rfl rfl
    · exact h
  | scanOut =>
    cases he
    unfold scanTurn
    split
    · exact h
    · split
      · exact h.of_same rfl rfl rfl
      · exact h
  | tick =>
    cases he
    unfold tickTurn
    split
    · exact h
    · exact h.of_same rfl rfl rfl
  | hostRead w o => rcases hostRead_next he with rfl | ⟨x, rfl⟩ <;> exact h.of_same rfl rfl rfl
  | hostWrite w o v =>
    rcases hostWrite_next he with rfl | ⟨-, rfl⟩ | rfl
    · exact h
    · exact h.of_same rfl rfl rfl
    · exact h.writePort o v
  | memRead a => cases he; exact h.of_same rfl rfl rfl
  | memWrite u v => cases he; exact h.of_same rfl rfl rfl
  | domainReady l => cases he; exact h.of_same rfl rfl rfl
  | reset => exact absurd rfl hr

theorem autoStep_lockedTo {c : ConfigBank} {s t : State} (h : s.LockedTo c) (ha : autoStep s = some t) :
    t.LockedTo c := by
  obtain ⟨-, ⟨op, rest, -, rfl⟩ | ⟨-, op, rest, -, rfl | rfl⟩⟩ := autoStep_cases ha
  · exact h.of_hostSide (handlerStep_hostSide op rest s)
  · exact h.of_same rfl rfl rfl
  · exact h.of_hostSide (sequencerStep_hostSide op rest s)

theorem idleTurn_ne_reset (n : Nat) : idleTurn n ≠ .reset := by
  unfold idleTurn
  split <;> simp

theorem lockedTo_invariant (c : ConfigBank) : StepInvariant (· ≠ .reset) (State.LockedTo c) where
  scheduled _ _ hes h := ⟨h.configured, h.cfg, fun hmem => hes _ hmem rfl⟩
  turned _ _ h := h.of_same rfl rfl rfl
  event _ _ _ := eventStep_lockedTo
  auto _ _ := autoStep_lockedTo
  ends _ _ _ _ h he := by cases he <;> exact h.of_same rfl rfl rfl
  launches _ _ _ _ h _ := h.of_same rfl rfl rfl

/-- Settles O14: the lock is an invariant of every choice but reset. -/
theorem configurationStaysLocked : Obligations.ConfigurationStaysLocked := by
  intro s t hconf hno hstep
  have hlocked : s.LockedTo s.cfg := ⟨hconf, rfl, hno⟩
  have hok : ∀ e ∈ s.env.schedule, e ≠ .reset := fun e he hr => hno (hr ▸ he)
  obtain ⟨hc, hcfg, hno'⟩ := (lockedTo_invariant s.cfg).step idleTurn_ne_reset hok hlocked hstep
  exact ⟨hc, hcfg, hno'⟩

end Sys2Proof.Machine
end

-- ==== The steady block ====
section
/-! PROOFS. What holds between the steps of every interleaving (`State.Steady`): it is `State.Held` and
`Engine.pendingOn` in a block that stands between commands, and a whole step leaves the block there. -/

namespace Sys2Proof.Machine

/-- No command is in mid-run, unless the block has faulted. -/
def State.Between (s : State) : Prop := s.port.fault = none → s.port.csq = .idle ∨ s.port.csq = .accepted

theorem not_sequencerWrites_between {s : State} (h : s.port.csq = .idle ∨ s.port.csq = .accepted) (r : RegId) :
    ¬ s.sequencerWrites r := by
  rintro ⟨v, ops, hq⟩
  rcases h with h | h <;> rw [h] at hq <;> cases hq

/-- Between commands only the handler can be writing a register. -/
theorem mirrored_between {s : State} (h : s.port.csq = .idle ∨ s.port.csq = .accepted) (r : RegId) :
    s.Mirrored r ↔ s.shadow.get r = s.engine.regs.get r ∨ s.handlerWrites r := by
  have hno := not_sequencerWrites_between h r
  unfold State.Mirrored
  tauto

/-- A settled block between commands is in the phase of its CSQ. -/
theorem State.Settled.phase {s : State} (h : s.Settled) (hq : s.port.csq = .idle ∨ s.port.csq = .accepted) :
    Phase s 0 s.port.csq := by
  rcases hq with hq | hq <;> rw [hq]
  · exact .idle h
  · exact .accepted h

theorem Phase.settled {s : State} {n : Nat} {c : Csq} (h : Phase s n c) (hc : c = .idle ∨ c = .accepted) :
    n = 0 ∧ s.Settled := by
  rcases hc with rfl | rfl
  · cases h with | idle hs => exact ⟨rfl, hs⟩
  · cases h with | accepted hs => exact ⟨rfl, hs⟩

theorem State.Steady.held {s : State} (h : s.Steady) : s.Held := by
  intro hf
  obtain ⟨hq, hsteady, hpower⟩ := h.2 hf
  refine ⟨0, s.vsync.maskdepth, by simp, hsteady, ?_, State.Settled.phase ?_ hq⟩
  · intro hrun
    rcases hpower with ⟨-, hb, -⟩ | ⟨-, -, -, -, hidle⟩
    · exact ⟨rfl, hb⟩
    · exact absurd hidle hrun
  · rcases hpower with ⟨hp, hb, hx, hm⟩ | ⟨hp, hb, hx, hsnap, -⟩
    · exact .inl ⟨hp, ⟨hb, hx⟩, fun r hr => (mirrored_between hq r).mpr (hm r hr)⟩
    · exact .inr ⟨hp, ⟨hb, hx⟩, hsnap⟩

theorem State.Steady.between {s : State} (h : s.Steady) : s.Between := fun hf => (h.2 hf).1

theorem State.Steady.of_held {s : State} (hp : s.engine.pendingOn) (hh : s.Held) (hb : s.Between) : s.Steady := by
  refine ⟨hp, fun hf => ?_⟩
  obtain ⟨n, d, hdepth, hsteady, hrun, hphase⟩ := hh hf
  obtain ⟨rfl, hset⟩ := hphase.settled (hb hf)
  have hd : s.vsync.maskdepth = d := by omega
  refine ⟨hb hf, by rw [hd]; exact hsteady, ?_⟩
  rcases hset with ⟨hact, hclk, hm⟩ | ⟨hsus, hclk, hsnap⟩
  · exact .inl ⟨hact, hclk.1, hclk.2, fun r hr => (mirrored_between (hb hf) r).mp (hm r hr)⟩
  · refine .inr ⟨hsus, hclk.1, hclk.2, hsnap, ?_⟩
    by_contra hne
    have := (hrun hne).2
    rw [hclk.1] at this
    cases this

/-! ### `State.Held` is kept by whole commands -/

/-- A settled block stays so when nothing that the condition looks at changes and no command is in mid-run. -/
theorem State.Settled.of_same {s t : State} (h : s.Settled) (hq : s.port.csq = .accepted) (hp : t.power = s.power)
    (hs : t.shadow = s.shadow) (he : t.engine.regs = s.engine.regs) (hh : t.vsync.handler = s.vsync.handler) :
    t.Settled :=
  h.mono (by rw [hp]; exact SamePower.refl _) fun r _ hm =>
    Mirrored.eq (by rw [hs]) (by rw [he]) hh (not_sequencerWrites_between (.inr hq) r) hm

/-- An accepted command that may start finds the block settled and unmasked. -/
theorem State.Held.accepted {s : State} (h : s.Held) (hq : s.port.csq = .accepted) (hfree : s.free) :
    s.vsync.maskdepth = 0 ∧ s.Settled := by
  obtain ⟨n, d, hdepth, hsteady, -, hphase⟩ := h hfree.1
  obtain ⟨rfl, hset⟩ := hphase.settled (.inr hq)
  rw [hfree.2] at hsteady
  have hd : d = 0 := hsteady
  exact ⟨by omega, hset⟩

theorem endsAtOnce_held {s t : State} (hq : s.port.csq = .accepted) (hfree : s.free) (h : s.Held)
    (he : EndsAtOnce s t) : t.Held := by
  obtain ⟨hm, hset⟩ := h.accepted hq hfree
  cases he with
  | answered r v => exact held_of_sequencer hfree.2 hm fun _ => .idle (hset.of_same hq rfl rfl rfl rfl)
  | stored i k v => exact held_of_sequencer hfree.2 hm fun _ => .idle (hset.of_same hq rfl rfl rfl rfl)
  | armed k n v => exact held_of_sequencer hfree.2 hm fun _ => .idle (hset.of_same hq rfl rfl rfl rfl)

theorem laysOut_held {s : State} {steps : List MicroOp} (hq : s.port.csq = .accepted) (hfree : s.free) (h : s.Held)
    (hl : LaysOut s steps) : (s.withCsq (.running steps)).Held := by
  obtain ⟨hm, hset⟩ := h.accepted hq hfree
  have hset' : (s.withCsq (.running steps)).Settled := hset.of_same hq rfl rfl rfl rfl
  refine held_of_sequencer hfree.2 hm fun _ => ?_
  cases hl with
  | body hb => exact .plain hset' (.out hb)
  | susp hp =>
    rcases hset' with ⟨hact, hclk, hmir⟩ | ⟨hsus, -⟩
    · exact .susp0 hact hclk hmir
    · exact absurd hsus hp
  | resm hp =>
    rcases hset' with ⟨hact, -⟩ | ⟨hsus, hclk, hsnap⟩
    · exact absurd hact hp
    · exact .resm0 hsus hclk hsnap

theorem held_of_sameBlock {s t : State} (h : s.Held) (hp : t.port = s.port) (hw : t.power = s.power)
    (hv : t.vsync = s.vsync) (hs : t.shadow = s.shadow) (he : t.engine = s.engine) : t.Held :=
  held_of_samePort h hp hw hs (by rw [he]) (by rw [hv]) (by rw [hv])

theorem State.Held.withEnv {s : State} (h : s.Held) (env : Platform) : State.Held { s with env := env } :=
  held_of_sameBlock h rfl rfl rfl rfl rfl

theorem held_invariant : StepInvariant (fun _ => True) State.Held where
  scheduled _ _ _ h := h.withEnv _
  turned _ _ h := h.withEnv _
  event _ _ _ _ := eventStep_held
  auto _ _ := autoStep_held
  ends _ _ := endsAtOnce_held
  launches _ _ := laysOut_held

theorem pendingOn_invariant : StepInvariant (fun _ => True) (fun s => s.engine.pendingOn) where
  scheduled _ _ _ h := h
  turned _ _ h := h
  event _ _ _ _ := eventStep_pendingOn
  auto _ _ := autoStep_pendingOn
  ends _ _ _ _ h he := by cases he <;> exact h
  launches _ _ _ _ h _ := h

/-! ### A whole step ends between commands -/

/-- With nothing left to run, the block stands between commands: no phase has an empty list of micro-steps. -/
theorem State.Held.between_of_stuck {s : State} (h : s.Held) (ha : autoStep s = none) : s.Between := by
  intro hf
  obtain ⟨n, d, -, hsteady, -, hphase⟩ := h hf
  have hidle : s.vsync.handler = .idle := by
    cases hh : s.vsync.handler with
    | idle => rfl
    | running ops =>
      cases ops with
      | nil =>
        rw [hh] at hsteady
        obtain ⟨-, front, hfront, -⟩ := hsteady
        simp at hfront
      | cons op rest => simp [autoStep, State.faulted, hf, hh] at ha
  cases hq : s.port.csq with
  | idle => exact .inl rfl
  | accepted => exact .inr rfl
  | running ops =>
    cases ops with
    | cons op rest => simp [autoStep, State.faulted, hf, hidle, hq] at ha
    | nil =>
      exfalso
      rw [hq] at hphase
      cases hphase with
      | plain _ hm => cases hm with | out hb => cases hb
      | susp2 _ _ _ hops => simp at hops
      | resm1 _ _ _ hops => simp at hops
      | resm2 _ _ _ hops => simp [resumeFailSteps] at hops
      | resm3 _ _ _ hm _ =>
        cases hm with
        | out hr => obtain ⟨-, front, hfront, -⟩ := hr; simp at hfront

theorem complete_between {s : State} (h : s.Held) : (complete s).Between :=
  (complete_held h).between_of_stuck (autoStep_complete s)

theorem busy_eq_false_iff (s : State) : s.busy = false ↔ s.port.csq = .idle := by
  unfold State.busy
  cases s.port.csq <;> simp

/-- A command run with the choices between its micro-steps stops when it has ended, or runs on to its end. -/
theorem runScheduled_between (es : List Event) {s t : State} (h : s.Held) (hr : runScheduled es s = .next t) :
    t.Between := by
  induction es generalizing s with
  | nil => cases hr; exact complete_between h
  | cons e es ih =>
    unfold runScheduled at hr
    split at hr
    · split at hr
      · rename_i he
        exact ih (eventStep_held (h.withEnv _) he) hr
      · cases hr
      · cases hr
    · rename_i hb
      cases hr
      exact fun _ => .inl ((busy_eq_false_iff _).mp (by simpa using hb))

theorem State.Between.of_port {s t : State} (h : s.Between) (hp : t.port = s.port) : t.Between := by
  unfold State.Between
  rw [hp]
  exact h

theorem State.Between.withEnv {s : State} (h : s.Between) (env : Platform) : State.Between { s with env := env } := h

theorem handlerStep_csq (op : MicroOp) (rest : List MicroOp) (s : State) :
    (handlerStep op rest s).port.csq = s.port.csq ∨ (handlerStep op rest s).port.csq = .idle := by
  obtain ⟨c, hc⟩ := handlerStep_eq op rest s
  rw [hc]
  exact (microStep_agents op s).2

/-- One choice between commands starts no command. -/
theorem eventStep_between {e : Event} {s t : State} (h : s.Between) (he : eventStep e s = .next t) : t.Between := by
  cases e with
  | sequencer =>
    cases he
    rcases sequencerTurn_cases s with hs | ⟨op, rest, hq, -, hf, -⟩
    · rw [hs]; exact h
    · rcases h hf with h | h <;> rw [h] at hq <;> cases hq
  | handler =>
    cases he
    rcases handlerTurn_cases s with hs | ⟨-, -, -, hs⟩ | ⟨op, rest, hf, -, hs⟩ <;> rw [hs]
    · exact h
    · exact h.of_port rfl
    · intro _
      rcases handlerStep_csq op rest s with hq | hq
      · rw [hq]; exact h hf
      · exact .inl hq
  | frameStart =>
    cases he
    unfold frameTurn
    split
    · exact h.of_port rfl
    · exact h
  | scanOut => cases he; exact h.of_port (scanTurn_cases s).1
  | tick =>
    cases he
    unfold tickTurn
    split
    · exact h
    · exact h.of_port rfl
  | hostRead w o =>
    rcases hostRead_next he with rfl | ⟨x, rfl⟩
    · exact fun hf => absurd hf (raise_faulted s o)
    · exact h.of_port rfl
  | hostWrite w o v =>
    rcases hostWrite_cases he with hf | ⟨hf, -, -, -, -, hq | ⟨-, hq⟩⟩
    · exact fun hf' => absurd hf' hf
    · intro hf'
      rw [hq]
      exact h (hf ▸ hf')
    · exact fun _ => .inr hq
  | memRead a => cases he; exact h.of_port rfl
  | memWrite u v => cases he; exact h.of_port rfl
  | domainReady l => cases he; exact h.of_port rfl
  | reset => cases he; exact fun _ => .inl rfl

theorem startCommand_between {s t : State} (h : s.Held) (hw : s.commandWaits = true)
    (hc : startCommand s = .next t) : t.Between := by
  obtain ⟨hq, hfree⟩ := s.commandWaits_iff.mp hw
  rcases startCommand_starts s with ⟨u, hu, he⟩ | ⟨steps, hl, hlay⟩
  · rw [hu] at hc
    cases hc
    cases he <;> exact fun _ => .inl rfl
  · rw [hl] at hc
    exact runScheduled_between _ (laysOut_held hq hfree h hlay) hc

theorem step_between {s t : State} (hh : s.Held) (hb : s.Between) (hst : step s = .next t) : t.Between := by
  unfold step at hst
  split at hst
  · split at hst
    · cases hst
    · split at hst
      · exact startCommand_between hh ‹_› hst
      · split at hst
        · cases hst; exact complete_between hh
        · exact eventStep_between (hb.withEnv _) hst
  · rename_i e es _
    split at hst
    · rename_i hc
      simp only [Bool.and_eq_true] at hc
      exact startCommand_between (hh.withEnv { s.env with schedule := es }) hc.2 hst
    · exact eventStep_between (hb.withEnv _) hst

/-- Settles O58: `Steady` is `Held` and `pendingOn`, each kept by every micro-step of every interleaving, in a block that
stands between commands; and a whole step leaves it between commands. -/
theorem everyStepKeepsSteady : Obligations.EveryStepKeepsSteady := by
  intro s t hs hst
  have hpending := pendingOn_invariant.step (fun _ => trivial) (fun _ _ => trivial) hs.1 hst
  have hheld := held_invariant.step (fun _ => trivial) (fun _ _ => trivial) hs.held hst
  exact .of_held hpending hheld (step_between hs.held hs.between hst)

end Sys2Proof.Machine
end

-- ==== Single facts: the placed word, RegWrite, reset ====
section
/-! PROOFS. The model's placing of a word, one `RegWrite`, and what reset leaves. -/

namespace Sys2Proof.Machine

/-! ### The placed word (log entry 4) -/

/-- The four bytes of a word, put together again, are the word (rule R73). -/
theorem decodeBytes_bytesOfWord (w : Word) : decodeBytes (bytesOfWord w) = decodeWord w := by
  have hword : wordOfBytes (w.extractLsb' 0 8) (w.extractLsb' 8 8) (w.extractLsb' 16 8) (w.extractLsb' 24 8) = w := by
    apply BitVec.eq_of_getLsbD_eq
    intro i hi
    simp only [wordOfBytes, BitVec.getLsbD_append, BitVec.getLsbD_extractLsb']
    grind
  show decodeWord (wordOfBytes _ _ _ _) = _
  rw [hword]

theorem decodeWord_of_tableWord {nbits w : Nat} {i : Instr} (h : decodeTableWord nbits w = some i) :
    decodeWord (tableWord nbits w) = .ok i := by
  unfold decodeTableWord at h
  rw [decodeBytes_bytesOfWord] at h
  cases hd : decodeWord (tableWord nbits w) with
  | ok j => rw [hd] at h; cases h; rfl
  | error e => rw [hd] at h; cases h

/-- Settles O6: the placed word stands accepted in a free block with nothing scheduled, so the step runs it. -/
theorem placedWordRuns : Obligations.PlacedWordRuns := by
  intro s nbits w i h
  have hd : decodeWord (s.withFetchWord nbits w).port.cmd = .ok i := decodeWord_of_tableWord h
  exact (stepRunsDecodedCommand (s.withFetchWord nbits w) i rfl rfl rfl hd).1 rfl

/-! ### One `RegWrite` (rule R40) -/

/-- Settles O18: masking and unmasking cancel, and w1 and w2 write the two copies. -/
theorem regWriteEffect : Obligations.RegWriteEffect := fun s r v =>
  ⟨rfl, fun q => (s.regWrite_get r q v).1, fun q => (s.regWrite_get r q v).2⟩

/-! ### Reset (rules R57, R281) -/

theorem WinRegs.get_zero (f : WinReg) : WinRegs.zero.get f = 0 := by
  cases f <;> rfl

theorem EngineRegs.get_zero (r : RegId) : EngineRegs.zero.get r = 0 := by
  cases r with
  | win i f => simpa [EngineRegs.zero, EngineRegs.get] using WinRegs.get_zero f
  | _ => rfl

theorem reset_windows (i : Win) : State.reset.windows[i] = Window.created := by
  simp [State.reset]

theorem reset_buffer (i : Win) : State.reset.windows[i].buffer = none := by
  rw [reset_windows]; rfl

/-- Settles O47: each field as `State.reset` writes it out, the vectors element by element. -/
theorem resetValues : Obligations.ResetValues := by
  have hargs : ∀ k : Fin 6, State.reset.port.args[k] = 0 := by simp [State.reset, Port.reset]
  have hwaiters : ∀ k : Fin 4, State.reset.vsync.waiters[k] = Waiter.reset := by simp [State.reset, Vsync.reset]
  have hlatches : ∀ i : Win, State.reset.engine.actStart[i] = 0 ∧ State.reset.engine.actEnd[i] = 0 := by
    simp [State.reset, Engine.lost]
  have htables : ∀ i : Win, State.reset.windows[i] = Window.created ∧ State.reset.pend.table[i] = none
      ∧ State.reset.pend.dirty[i] = false ∧ State.reset.pend.request[i] = false := by
    simp [State.reset, PalettePending.reset]
  exact ⟨by decide, by decide, rfl, rfl, hargs, rfl, rfl, rfl, rfl, rfl, rfl, rfl, rfl, hwaiters,
    fun r => ⟨EngineRegs.get_zero r, EngineRegs.get_zero r⟩, rfl, rfl, hlatches, htables, rfl, rfl⟩

theorem reset_programmed : Programmed State.reset.shadow State.reset.windows where
  noFlush := rfl
  enables i := by simp [State.reset, Window.created, EngineRegs.winEn, EngineRegs.zero, WinRegs.zero, bit]
  latched i h := by rw [reset_buffer] at h; cases h
  strides i h := by rw [reset_buffer] at h; cases h
  starts i b h := by rw [reset_buffer] at h; cases h

theorem reset_legal : State.reset.Legal where
  unmasked := rfl
  active _ := ⟨rfl, rfl, fun _ _ => rfl, reset_programmed⟩
  suspended h := by cases h
  settled := .inl rfl
  buffers i b h := by rw [reset_buffer] at h; cases h
  opaqueBase := by simp [State.reset, Window.created]
  oneSurface i _ := by simp [State.reset, EngineRegs.zero, WinRegs.zero, bit]
  tables i := by simp [State.reset, PalettePending.reset, Window.created]
  dirtyMarks i := by simp [State.reset, PalettePending.reset]

/-- The reset state is steady: idle, unmasked, Active with both clocks on, every register 0 in both copies. -/
theorem reset_steady : State.reset.Steady :=
  ⟨fun h => (by cases h), fun _ => ⟨.inl rfl, rfl, .inl ⟨rfl, rfl, rfl, fun _ _ => .inl rfl⟩⟩⟩

/-- No agent holds a micro-step after reset. -/
theorem reset_agentsApart : State.reset.agentsApart :=
  ⟨fun _ h => (by cases h), fun _ h => (by cases h)⟩

/-- Settles O56. -/
theorem invariantsAtReset : Obligations.InvariantsAtReset :=
  ⟨State.reset_mem_wf, reset_steady, reset_agentsApart, reset_legal, fun h => (by cases h), rfl⟩

end Sys2Proof.Machine
end

-- ==== The address map ====
section
/-! PROOFS. The register port: the offset of each register, the register at each offset, and from them what the host reads
and writes (rules R21, R26, R31, R39, R47, R78, R79, R256). -/

namespace Sys2Proof.Machine

/-! ### The offset of every register -/

/-- The offset of a control-domain register (rule R26). -/
def ControlReg.offset : ControlReg → Nat
  | .cmd => 0x000
  | .status => 0x004
  | .retval => 0x008
  | .arg k => 0x010 + 4 * k.val
  | .pwrstat => 0x030
  | .intmask => 0x034
  | .vscount => 0x038
  | .hwwrcnt => 0x03C
  | .waitstat k => 0x040 + 4 * k.val
  | .waitval k => 0x050 + 4 * k.val
  | .srcclk => 0x060
  | .paldirty => 0x064
  | .palreq => 0x068
  | .cfgRes => 0x080
  | .cfgVres => 0x084
  | .cfgHtim => 0x088
  | .cfgVtim => 0x08C
  | .cfgRefresh => 0x090
  | .cfgMisc => 0x094
  | .cfgPhys => 0x098
  | .fbBase i => 0x0A0 + 8 * i.val
  | .fbCap i => 0x0A4 + 8 * i.val
  | .wdFlags i => 0x800 + 0x20 * i.val
  | .wdBufbase i => 0x804 + 0x20 * i.val
  | .wdBuflen i => 0x808 + 0x20 * i.val
  | .wdStride i => 0x80C + 0x20 * i.val
  | .wdYoff i => 0x810 + 0x20 * i.val
  | .shadow r => 0x4000 + r.offset

/-- Whether the control domain has the register: a shadow word only of a register that exists (rules R26, R39). -/
def ControlReg.Exists : ControlReg → Prop
  | .shadow r => r ∈ shadowIds
  | _ => True

/-- The offset of an engine-domain register (rule R31). -/
def EngineReg.offset : EngineReg → Nat
  | .reg r => r.offset
  | .intpend => 0x11C
  | .palram i k => 0x1000 + 0x400 * i.val + 4 * k.val

/-- Whether the engine domain has the register (rule R31). -/
def EngineReg.Exists : EngineReg → Prop
  | .reg r => r ∈ shadowIds
  | _ => True

/-- The shadowed registers lie at 0x100 to 0x324, and none at INTPEND's offset. -/
theorem RegId.offset_range : ∀ r ∈ shadowIds, 0x100 ≤ r.offset ∧ r.offset ≤ 0x324 ∧ r.offset ≠ 0x11C := by decide

theorem RegId.ofOffset_offset : ∀ r ∈ shadowIds, RegId.ofOffset r.offset = some r := by decide

theorem RegId.eq_offset_of_ofOffset {o : Nat} {r : RegId} (h : RegId.ofOffset o = some r) :
    r ∈ shadowIds ∧ o = r.offset := by
  unfold RegId.ofOffset at h
  have hfound := List.find?_some h
  exact ⟨List.mem_of_find?_eq_some h, (by simpa using hfound : r.offset = o).symm⟩

theorem val_of_windowIndex {n : Nat} {i : Win} (h : windowIndex n = some i) : n = i.val := by
  unfold windowIndex at h
  split at h
  · cases h; rfl
  · cases h

theorem windowIndex_val (i : Win) : windowIndex i.val = some i := by
  unfold windowIndex
  rw [dif_pos i.isLt]

/-! ### The register at an offset -/

theorem plainControlReg_offset {o : Nat} {r : ControlReg} (h : plainControlReg o = some r) :
    r.Exists ∧ o = r.offset := by
  unfold plainControlReg at h
  split at h <;> cases h <;> exact ⟨trivial, rfl⟩

theorem carveOutReg_offset {d : Nat} {r : ControlReg} (h : carveOutReg d = some r) :
    r.Exists ∧ 0x0A0 + d = r.offset := by
  unfold carveOutReg at h
  split at h
  · cases h
  · rename_i i hi
    have hval := val_of_windowIndex hi
    split at h
    · cases h
      refine ⟨trivial, ?_⟩
      show 0x0A0 + d = 0x0A0 + 8 * i.val
      omega
    · split at h
      · cases h
        refine ⟨trivial, ?_⟩
        show 0x0A0 + d = 0x0A4 + 8 * i.val
        omega
      · cases h

theorem descriptorReg_offset {d : Nat} {r : ControlReg} (h : descriptorReg d = some r) :
    r.Exists ∧ 0x800 + d = r.offset := by
  unfold descriptorReg at h
  split at h
  · cases h
  · rename_i i hi
    have hval := val_of_windowIndex hi
    split at h <;> cases h <;> refine ⟨trivial, ?_⟩ <;> simp only [ControlReg.offset] <;> omega

/-- An offset at which the control domain has a register is that register's offset. -/
theorem ControlReg.eq_offset_of_ofOffset {o : Nat} {r : ControlReg} (h : ControlReg.ofOffset o = some r) :
    r.Exists ∧ o = r.offset := by
  unfold ControlReg.ofOffset at h
  split at h
  · simp only [Option.map_eq_some_iff] at h
    obtain ⟨q, hq, rfl⟩ := h
    obtain ⟨hmem, hoff⟩ := RegId.eq_offset_of_ofOffset hq
    refine ⟨hmem, ?_⟩
    show o = 0x4000 + q.offset
    omega
  · split at h
    · obtain ⟨hex, hoff⟩ := descriptorReg_offset h
      exact ⟨hex, by omega⟩
    · split at h
      · split at h
        · obtain ⟨hex, hoff⟩ := carveOutReg_offset h
          exact ⟨hex, by omega⟩
        · cases h
      · exact plainControlReg_offset h

/-- The control domain has each of its registers at its offset. -/
theorem ControlReg.ofOffset_offset {r : ControlReg} (h : r.Exists) : ControlReg.ofOffset r.offset = some r := by
  cases r with
  | arg k | waitstat k | waitval k | fbBase k | fbCap k | wdFlags k | wdBufbase k | wdBuflen k | wdStride k | wdYoff k =>
    clear h
    revert k
    decide
  | shadow q =>
    have hoff : (ControlReg.shadow q).offset = 0x4000 + q.offset := rfl
    rw [hoff]
    unfold ControlReg.ofOffset
    rw [if_pos (by omega), Nat.add_sub_cancel_left, RegId.ofOffset_offset q h]
    rfl
  | _ => rfl

theorem paletteReg_offset {d : Nat} {r : EngineReg} (h : paletteReg d = some r) (halign : d % 4 = 0) :
    r.Exists ∧ 0x1000 + d = r.offset := by
  unfold paletteReg at h
  split at h
  · cases h
  · rename_i i hi
    have hval := val_of_windowIndex hi
    have hr := Option.some.inj h
    have hword : (Fin.ofNat Config.paletteSize (d % 0x400 / 4)).val = d % 0x400 / 4 := by
      rw [Fin.val_ofNat]
      exact Nat.mod_eq_of_lt (by unfold Config.paletteSize; omega)
    have hoff : (EngineReg.palram i (Fin.ofNat Config.paletteSize (d % 0x400 / 4))).offset
        = 0x1000 + 0x400 * i.val + 4 * (d % 0x400 / 4) := congrArg (fun n => 0x1000 + 0x400 * i.val + 4 * n) hword
    rw [← hr]
    exact ⟨trivial, by omega⟩

/-- An aligned offset at which the engine domain has a register is that register's offset. -/
theorem EngineReg.eq_offset_of_ofOffset {o : Nat} {r : EngineReg} (h : EngineReg.ofOffset o = some r)
    (halign : o % 4 = 0) : r.Exists ∧ o = r.offset := by
  unfold EngineReg.ofOffset at h
  split at h
  · obtain ⟨hex, hoff⟩ := paletteReg_offset h (by omega)
    exact ⟨hex, by omega⟩
  · split at h
    · cases h; exact ⟨trivial, ‹_›⟩
    · simp only [Option.map_eq_some_iff] at h
      obtain ⟨q, hq, rfl⟩ := h
      exact RegId.eq_offset_of_ofOffset hq

/-- The engine domain has each of its registers at its offset. -/
theorem EngineReg.ofOffset_offset {r : EngineReg} (h : r.Exists) : EngineReg.ofOffset r.offset = some r := by
  cases r with
  | reg q =>
    obtain ⟨hlo, hhi, hne⟩ := RegId.offset_range q h
    have hoff : (EngineReg.reg q).offset = q.offset := rfl
    rw [hoff]
    unfold EngineReg.ofOffset
    rw [if_neg (by omega), if_neg hne, RegId.ofOffset_offset q h]
    rfl
  | intpend => rfl
  | palram i k =>
    have hi := i.isLt
    have hk := k.isLt
    simp only [Config.nwin, Config.paletteSize] at hi hk
    have hoff : (EngineReg.palram i k).offset = 0x1000 + 0x400 * i.val + 4 * k.val := rfl
    have hwin : (0x1000 + 0x400 * i.val + 4 * k.val - 0x1000) / 0x400 = i.val := by omega
    have hword : (0x1000 + 0x400 * i.val + 4 * k.val - 0x1000) % 0x400 / 4 = k.val := by omega
    rw [hoff]
    unfold EngineReg.ofOffset
    rw [if_pos (by omega), paletteReg, hwin, hword, windowIndex_val]
    simp

/-! ### The domain of an offset (rule R21) -/

theorem domainOf_engine_iff (o : Nat) : domainOf o = .engine ↔ engineOffset o := by
  unfold domainOf engineOffset
  repeat' split
  all_goals simp only [reduceCtorEq, false_iff, true_iff]; omega

theorem ControlReg.domainOf_offset {r : ControlReg} (h : r.Exists) : domainOf r.offset = .control := by
  cases r with
  | arg k | waitstat k | waitval k | fbBase k | fbCap k | wdFlags k | wdBufbase k | wdBuflen k | wdStride k | wdYoff k =>
    clear h
    revert k
    decide
  | shadow q =>
    obtain ⟨hlo, hhi, -⟩ := RegId.offset_range q h
    have hoff : (ControlReg.shadow q).offset = 0x4000 + q.offset := rfl
    rw [hoff]
    unfold domainOf
    rw [if_neg (by omega), if_neg (by omega), if_neg (by omega), if_neg (by omega), if_pos (by omega)]
  | _ => rfl

theorem EngineReg.engineOffset_offset {r : EngineReg} (h : r.Exists) : engineOffset r.offset := by
  cases r with
  | reg q =>
    obtain ⟨hlo, hhi, -⟩ := RegId.offset_range q h
    exact .inl ⟨hlo, by show q.offset ≤ _; omega⟩
  | intpend => decide
  | palram i k =>
    have hi := i.isLt
    have hk := k.isLt
    simp only [Config.nwin, Config.paletteSize] at hi hk
    right
    show 0x1000 ≤ 0x1000 + 0x400 * i.val + 4 * k.val ∧ 0x1000 + 0x400 * i.val + 4 * k.val ≤ 0x2FFF
    omega

theorem ControlReg.not_engineOffset {r : ControlReg} (h : r.Exists) : ¬ engineOffset r.offset := by
  rw [← domainOf_engine_iff, r.domainOf_offset h]
  simp

/-! ### Reads -/

/-- The host reads a control-domain register at its offset. -/
theorem State.portValue_control (s : State) {r : ControlReg} (h : r.Exists) :
    s.portValue r.offset = s.readControl r := by
  unfold State.portValue
  rw [ControlReg.domainOf_offset h, ControlReg.ofOffset_offset h]
  rfl

/-- The host reads an engine-domain register at its offset. -/
theorem State.portValue_engine (s : State) {r : EngineReg} (h : r.Exists) :
    s.portValue r.offset = s.engine.read r := by
  unfold State.portValue
  rw [(domainOf_engine_iff _).mpr (EngineReg.engineOffset_offset h), EngineReg.ofOffset_offset h]
  rfl

/-- The registers that exist, each with its offset and value, are the table of rule R31. -/
theorem shadowIds_registersAt (e : EngineRegs) : shadowIds.map (fun r => (r.offset, e.get r)) = registersAt e := rfl

/-- Settles O11. -/
theorem shadowPort : Obligations.ShadowPort := by
  have hshadow : ∀ (s : State), ∀ r ∈ shadowIds, s.portValue (0x4000 + r.offset) = s.shadow.get r :=
    fun s r hr => s.portValue_control (r := .shadow r) hr
  have hreg : ∀ (s : State), ∀ r ∈ shadowIds, s.portValue r.offset = s.engine.regs.get r :=
    fun s r hr => s.portValue_engine (r := .reg r) hr
  refine ⟨fun s r hr => ⟨hshadow s r hr, hreg s r hr, ControlReg.not_engineOffset (r := .shadow r) hr,
    EngineReg.engineOffset_offset (r := .reg r) hr⟩, fun s => ⟨fun p hp => ?_, fun p hp => ?_⟩, shadowIds_registersAt⟩
  · rw [← shadowIds_registersAt, List.mem_map] at hp
    obtain ⟨r, hr, rfl⟩ := hp
    exact hreg s r hr
  · rw [← shadowIds_registersAt, List.mem_map] at hp
    obtain ⟨r, hr, rfl⟩ := hp
    exact hshadow s r hr

end Sys2Proof.Machine
end

-- ==== The register port ====
section
/-! PROOFS. Words that gather fields, and what the host reads and writes at every offset. -/

namespace Sys2Proof.Machine

/-! ### Words made of fields (rules R7, R24, R27, R47) -/

/-- A field placed above a word that leaves it room adds to it. -/
theorem toNat_or_field {a b : Word} {n m : Nat} (k : Nat) (ha : a.toNat = n) (hb : b.toNat = m) (hn : n < 2 ^ k)
    (hm : m * 2 ^ k < 2 ^ 32) : (a ||| (b <<< k)).toNat = n + m * 2 ^ k := by
  subst ha hb
  rw [BitVec.toNat_or, BitVec.toNat_shiftLeft, Nat.shiftLeft_eq, Nat.mod_eq_of_lt hm, Nat.or_comm, Nat.mul_comm,
    ← Nat.two_pow_add_eq_or_of_lt hn, Nat.add_comm]

theorem flagWord_toNat (b : Bool) : (flagWord b).toNat = b.toNat := by
  cases b <;> rfl

theorem word_toNat {n : Nat} (h : n < 4294967296) : (word n).toNat = n := by
  simpa [word] using Nat.mod_eq_of_lt h

theorem bit_eq_decide (w : Word) (n : Nat) : bit w n = decide (w.toNat / 2 ^ n % 2 = 1) := by
  unfold bit BitVec.getLsbD
  rw [Nat.testBit_eq_decide_div_mod_eq]

theorem bits_eq (w : Word) (hi lo : Nat) : bits w hi lo = w.toNat / 2 ^ lo % 2 ^ (hi - lo + 1) := by
  rw [bits, Nat.shiftRight_eq_div_pow]

/-- A bit whose value in the word is that of a flag. -/
theorem bit_eq_of_toNat {w : Word} {n : Nat} {b : Bool} (h : w.toNat / 2 ^ n % 2 = b.toNat) : bit w n = b := by
  rw [bit_eq_decide, h]
  cases b <;> rfl

/-! ### The descriptor registers (rules R26, R47) -/

theorem Format.code_le (f : Format) : f.code ≤ 2 := by
  cases f <;> decide

/-- The format's code in WD_FLAGS, 0 without a format (rule R47). -/
def Window.formatCode (d : Window) : Nat := (d.format.map Format.code).getD 0

theorem Window.formatCode_le (d : Window) : d.formatCode ≤ 2 := by
  unfold Window.formatCode
  cases d.format with
  | none => exact Nat.zero_le 2
  | some f => exact f.code_le

/-- WD_FLAGS as a number: each flag at its bit, the format's code at bits 3 and 2. -/
theorem Window.flagsWord_toNat (d : Window) : d.flagsWord.toNat
    = d.buffer.isSome.toNat + d.enabled.toNat * 2 ^ 1 + d.formatCode * 2 ^ 2
      + ((d.buffer.map Buffer.double).getD false).toNat * 2 ^ 4 + d.blend.isSome.toNat * 2 ^ 5
      + d.palDefer.toNat * 2 ^ 6 + ((d.buffer.map Buffer.committed).getD false).toNat * 2 ^ 7
      + d.format.isSome.toNat * 2 ^ 8 := by
  have hcode := d.formatCode_le
  have hbuffer := Bool.toNat_le d.buffer.isSome
  have henabled := Bool.toNat_le d.enabled
  have hdouble := Bool.toNat_le ((d.buffer.map Buffer.double).getD false)
  have hblend := Bool.toNat_le d.blend.isSome
  have hdefer := Bool.toNat_le d.palDefer
  have hcommitted := Bool.toNat_le ((d.buffer.map Buffer.committed).getD false)
  have hformat := Bool.toNat_le d.format.isSome
  refine toNat_or_field 8 (toNat_or_field 7 (toNat_or_field 6 (toNat_or_field 5 (toNat_or_field 4 (toNat_or_field 2
    (toNat_or_field 1 (flagWord_toNat _) (flagWord_toNat _) ?_ ?_)
    (word_toNat (Nat.lt_of_le_of_lt d.formatCode_le (by decide))) ?_ ?_)
    (flagWord_toNat _) ?_ ?_) (flagWord_toNat _) ?_ ?_) (flagWord_toNat _) ?_ ?_) (flagWord_toNat _) ?_ ?_)
    (flagWord_toNat _) ?_ ?_ <;> omega

/-- WD_STRIDE as a number, for fields that fit. -/
theorem Window.strideWord_toNat (d : Window) (hs : d.lineStride < 65536) (hp : d.panOffset < 65536) :
    d.strideWord.toNat = d.panOffset * 65536 + d.lineStride := by
  have hlow : (word d.lineStride &&& 0x0000FFFF#32).toNat = d.lineStride := by
    rw [BitVec.toNat_and, word_toNat (by omega)]
    exact (Nat.and_two_pow_sub_one_eq_mod d.lineStride 16).trans (Nat.mod_eq_of_lt hs)
  have hsum := toNat_or_field 16 hlow (word_toNat (n := d.panOffset) (by omega)) hs (by omega)
  unfold Window.strideWord
  rw [BitVec.or_comm, hsum]
  omega

/-- Settles O12. -/
theorem descriptorRegisters : Obligations.DescriptorRegisters := by
  intro s i
  have hflags := s.windows[i].flagsWord_toNat
  have hcode := s.windows[i].formatCode_le
  have hbuffer := Bool.toNat_le s.windows[i].buffer.isSome
  have henabled := Bool.toNat_le s.windows[i].enabled
  have hdouble := Bool.toNat_le ((s.windows[i].buffer.map Buffer.double).getD false)
  have hblend := Bool.toNat_le s.windows[i].blend.isSome
  have hdefer := Bool.toNat_le s.windows[i].palDefer
  have hcommitted := Bool.toNat_le ((s.windows[i].buffer.map Buffer.committed).getD false)
  have hformat := Bool.toNat_le s.windows[i].format.isSome
  refine ⟨s.portValue_control (r := .wdFlags i) trivial, bit_eq_of_toNat (by omega), bit_eq_of_toNat (by omega), ?_,
    by omega, bit_eq_of_toNat (by omega), bit_eq_of_toNat (by omega), bit_eq_of_toNat (by omega),
    bit_eq_of_toNat (by omega), bit_eq_of_toNat (by omega), s.portValue_control (r := .wdBufbase i) trivial,
    s.portValue_control (r := .wdBuflen i) trivial, fun hs hp => ?_, s.portValue_control (r := .wdYoff i) trivial⟩
  · have hbits : bits s.windows[i].flagsWord 3 2 = s.windows[i].formatCode := by
      rw [bits_eq]
      omega
    rw [hbits]
    unfold Window.formatCode
    rcases s.windows[i].format with _ | _ | _ | _ <;> rfl
  · exact (congrArg BitVec.toNat (s.portValue_control (r := .wdStride i) trivial)).trans
      (s.windows[i].strideWord_toNat hs hp)

/-! ### The other registers (rules R22 to R30, R216, R250) -/

theorem Result.code_lt (r : Result) : r.code < 16 := by
  cases r <;> decide

/-- STATUS as a number: the four flags, then the result code. -/
theorem State.statusWord_toNat (s : State) : s.statusWord.toNat
    = s.busy.toNat + s.faulted.toNat * 2 ^ 1 + s.port.overrun.toNat * 2 ^ 2 + s.port.configured.toNat * 2 ^ 3
      + s.port.result.code * 2 ^ 4 := by
  have hcode := s.port.result.code_lt
  have hbusy := Bool.toNat_le s.busy
  have hfault := Bool.toNat_le s.faulted
  have hoverrun := Bool.toNat_le s.port.overrun
  have hconfigured := Bool.toNat_le s.port.configured
  exact toNat_or_field 4 (toNat_or_field 3 (toNat_or_field 2 (toNat_or_field 1 (flagWord_toNat _) (flagWord_toNat _)
    (by omega) (by omega)) (flagWord_toNat _) (by omega) (by omega)) (flagWord_toNat _) (by omega) (by omega))
    (word_toNat (by omega)) (by omega) (by omega)

theorem PState.code_lt (p : PState) : p.code < 4 := by
  cases p <;> decide

/-- PWRSTAT as a number: the state's code and the two clock bits. -/
theorem Power.statWord_toNat (p : Power) : p.statWord.toNat
    = p.pstate.code + p.busclkOn.toNat * 2 ^ 4 + p.pixclkOn.toNat * 2 ^ 5 := by
  have hcode := p.pstate.code_lt
  have hbus := Bool.toNat_le p.busclkOn
  have hpix := Bool.toNat_le p.pixclkOn
  exact toNat_or_field 5 (toNat_or_field 4 (word_toNat (by omega)) (flagWord_toNat _) (by omega) (by omega))
    (flagWord_toNat _) (by omega) (by omega)

theorem State.busy_toNat (s : State) : s.busy.toNat = if s.port.csq = .idle then 0 else 1 := by
  unfold State.busy
  cases s.port.csq <;> rfl

theorem State.faulted_toNat (s : State) : s.faulted.toNat = if s.port.fault = none then 0 else 1 := by
  unfold State.faulted
  cases s.port.fault <;> rfl

theorem Waiter.statWord_eq (w : Waiter) : w.statWord
    = match w.state with | .idle => 0x00 | .waiting => 0x01 | .done => 0x02 | .timedOut => 0x63 := by
  unfold Waiter.statWord
  cases w.state <;> rfl

theorem flagWord_eq (b : Bool) : flagWord b = if b then 1 else 0 := rfl

/-- One flag at its bit. -/
theorem bit_flagWord_shiftLeft (b : Bool) {i : Nat} (hi : i < 32) (n : Nat) :
    bit (flagWord b <<< i) n = (decide (n = i) && b) := by
  cases b with
  | false => simp [bit, flagWord]
  | true => simp [bit, flagWord, BitVec.getLsbD_one]; grind

theorem bit_or (a b : Word) (n : Nat) : bit (a ||| b) n = (bit a n || bit b n) := by
  simp [bit]

/-- The flags of five windows, each at its bit (rule R25). -/
theorem bit_packFlags (v : PerWindow Bool) (n : Nat) :
    bit (packFlags v) n = if h : n < Config.nwin then v[n] else false := by
  have hpack : packFlags v = ((((0#32 ||| (flagWord v[0] <<< 0)) ||| (flagWord v[1] <<< 1)) ||| (flagWord v[2] <<< 2))
      ||| (flagWord v[3] <<< 3)) ||| (flagWord v[4] <<< 4) := rfl
  have hzero : bit 0#32 n = false := by simp [bit]
  rw [hpack, bit_or, bit_or, bit_or, bit_or, bit_or, bit_flagWord_shiftLeft _ (by omega),
    bit_flagWord_shiftLeft _ (by omega), bit_flagWord_shiftLeft _ (by omega), bit_flagWord_shiftLeft _ (by omega),
    bit_flagWord_shiftLeft _ (by omega), hzero]
  split
  · rename_i h
    simp only [Config.nwin] at h
    interval_cases n <;> simp
  · rename_i h
    simp only [Config.nwin] at h
    simp [show n ≠ 0 by omega, show n ≠ 1 by omega, show n ≠ 2 by omega, show n ≠ 3 by omega, show n ≠ 4 by omega]

/-- Every offset of a control-domain register is one that rule R26 or R39 names. -/
theorem ControlReg.offsetNamed_offset {r : ControlReg} (h : r.Exists) : offsetNamed r.offset := by
  cases r with
  | arg k | waitstat k | waitval k =>
    left
    clear h
    revert k
    decide
  | fbBase i | fbCap i =>
    right; left
    clear h
    revert i
    decide
  | wdFlags i | wdBufbase i | wdBuflen i | wdStride i | wdYoff i =>
    right; right; left
    clear h
    revert i
    decide
  | shadow q => exact .inr (.inr (.inr (.inl ⟨q, h, .inr rfl⟩)))
  | _ => left; decide

/-- Every offset of an engine-domain register is one that rule R31 names. -/
theorem EngineReg.offsetNamed_offset {r : EngineReg} (h : r.Exists) : offsetNamed r.offset := by
  cases r with
  | reg q => exact .inr (.inr (.inr (.inl ⟨q, h, .inl rfl⟩)))
  | intpend => exact .inr (.inr (.inr (.inr (.inl rfl))))
  | palram i k =>
    have hi := i.isLt
    have hk := k.isLt
    simp only [Config.nwin, Config.paletteSize] at hi hk
    refine .inr (.inr (.inr (.inr (.inr ?_))))
    show 0x1000 ≤ 0x1000 + 0x400 * i.val + 4 * k.val ∧ 0x1000 + 0x400 * i.val + 4 * k.val < 0x2400
    omega

/-- An aligned offset that no rule names has no register and reads 0. -/
theorem State.portValue_unnamed (s : State) {o : Nat} (halign : o % 4 = 0) (h : ¬ offsetNamed o) :
    s.portValue o = 0 := by
  unfold State.portValue
  split
  · cases hr : ControlReg.ofOffset o with
    | none => rfl
    | some r =>
      obtain ⟨hex, rfl⟩ := ControlReg.eq_offset_of_ofOffset hr
      exact absurd (ControlReg.offsetNamed_offset hex) h
  · cases hr : EngineReg.ofOffset o with
    | none => rfl
    | some r =>
      obtain ⟨hex, rfl⟩ := EngineReg.eq_offset_of_ofOffset hr halign
      exact absurd (EngineReg.offsetNamed_offset hex) h
  · rfl

/-- Settles O13: each register at its offset, then the word that it holds. -/
theorem controlRegisters : Obligations.ControlRegisters := by
  intro s
  have hread : ∀ r : ControlReg, r.Exists → s.portValue r.offset = s.readControl r := fun _ => s.portValue_control
  have hengine : ∀ r : EngineReg, r.Exists → s.portValue r.offset = s.engine.read r := fun _ => s.portValue_engine
  have hstatus : (s.portValue 0x004).toNat = s.statusWord.toNat := congrArg BitVec.toNat (hread .status trivial)
  have hpower : (s.portValue 0x030).toNat = s.power.statWord.toNat := congrArg BitVec.toNat (hread .pwrstat trivial)
  have hmask : s.vsync.maskWord = if 0 < s.vsync.maskdepth then 1 else 0 := by
    simp [Vsync.maskWord, Vsync.masked, flagWord]
  refine ⟨?_, hread .cmd trivial, hread .retval trivial, fun k => hread (.arg k) trivial, ?_,
    (hread .intmask trivial).trans hmask, hread .vscount trivial, hread .hwwrcnt trivial,
    fun k => ⟨(hread (.waitstat k) trivial).trans (Waiter.statWord_eq _), hread (.waitval k) trivial⟩,
    hread .srcclk trivial, fun n => ?_, fun n => ?_, hread .cfgRes trivial, hread .cfgVres trivial,
    hread .cfgHtim trivial, hread .cfgVtim trivial, hread .cfgRefresh trivial, hread .cfgMisc trivial,
    hread .cfgPhys trivial, fun i => ⟨hread (.fbBase i) trivial, hread (.fbCap i) trivial⟩,
    (hengine .intpend trivial).trans (flagWord_eq _), fun i k => hengine (.palram i k) trivial,
    fun o _ halign hnamed => s.portValue_unnamed halign hnamed⟩
  · rw [hstatus, State.statusWord_toNat, State.busy_toNat, State.faulted_toNat]
    have hcode : s.port.result.code = match s.port.result with
        | .ok => 0 | .invalidWindow => 1 | .invalidGeometry => 2 | .invalidFormat => 3 | .invalidTiming => 4
        | .invalidPan => 5 | .powerSequenceFailed => 7 | .notReady => 14 | .illegalCommand => 15 := by
      cases s.port.result <;> rfl
    refine Eq.trans ?_ (congrArg (fun c => (if s.port.csq = .idle then 0 else 1)
      + (if s.port.fault = none then 0 else 2) + (if s.port.overrun then 4 else 0)
      + (if s.port.configured then 8 else 0) + 16 * c) hcode)
    cases s.port.overrun <;> cases s.port.configured <;> split <;> split <;> simp <;> omega
  · rw [hpower, Power.statWord_toNat]
    have hcode : s.power.pstate.code
        = match s.power.pstate with | .active => 0 | .suspending => 1 | .suspended => 2 | .resuming => 3 := by
      cases s.power.pstate <;> rfl
    refine Eq.trans ?_ (congrArg (fun c => c + (if s.power.busclkOn then 16 else 0)
      + (if s.power.pixclkOn then 32 else 0)) hcode)
    cases s.power.busclkOn <;> cases s.power.pixclkOn <;> rfl
  · exact (congrArg (bit · n) (hread .paldirty trivial)).trans (bit_packFlags _ n)
  · exact (congrArg (bit · n) (hread .palreq trivial)).trans (bit_packFlags _ n)

/-! ### Writes (rules R26, R30, R79) -/

/-- The Lock registers: the CFG bank and the carve-outs (rule R26). -/
inductive LockReg
  | res
  | vres
  | htim
  | vtim
  | refresh
  | misc
  | phys
  | base (i : Win)
  | cap (i : Win)
deriving DecidableEq

/-- The Lock register as a control-domain register. -/
def LockReg.reg : LockReg → ControlReg
  | .res => .cfgRes
  | .vres => .cfgVres
  | .htim => .cfgHtim
  | .vtim => .cfgVtim
  | .refresh => .cfgRefresh
  | .misc => .cfgMisc
  | .phys => .cfgPhys
  | .base i => .fbBase i
  | .cap i => .fbCap i

/-- The named fields of a Lock register (rule R26). -/
def LockReg.mask : LockReg → Word
  | .res => 0x1FFF1FFF
  | .vres => 0x3FFF3FFF
  | .htim => 0x3FFFFFFF
  | .vtim => 0x3FFFFFFF
  | .refresh => 0x0000FFFF
  | .misc => 0x0000FF0F
  | .phys => 0xFFFFFFFF
  | .base _ => 0xFFFFFFFF
  | .cap _ => 0xFFFFFFFF

/-- The Lock registers in ascending offset. -/
def LockReg.all : List LockReg :=
  [.res, .vres, .htim, .vtim, .refresh, .misc, .phys]
    ++ (List.finRange Config.nwin).flatMap fun i => [.base i, .cap i]

theorem LockReg.exists_reg (l : LockReg) : l.reg.Exists := by
  cases l <;> trivial

theorem lockMasks_eq : lockMasks = LockReg.all.map fun l => (l.reg.offset, l.mask) := by decide

/-- An entry of `lockMasks` is a Lock register's offset and mask. -/
theorem lockReg_of_mem {p : Nat × Word} (h : p ∈ lockMasks) : ∃ l : LockReg, p = (l.reg.offset, l.mask) := by
  rw [lockMasks_eq, List.mem_map] at h
  obtain ⟨l, -, rfl⟩ := h
  exact ⟨l, rfl⟩

/-- What a write of one Lock register leaves in each: the named bits in its own, every other as it was. -/
theorem State.readControl_put (s : State) (l q : LockReg) (v : Word) :
    State.readControl { s with cfg := s.cfg.put l.reg v } q.reg = if q = l then v &&& l.mask else s.readControl q.reg := by
  have hset : ∀ (w : PerWindow Word) (i j : Win), (w.set i v)[j] = if j = i then v else w[j] := by
    intro w i j
    by_cases h : j = i
    · subst h; simp
    · have hv : ¬ i.val = j.val := fun h' => h (Fin.ext h'.symm)
      simp [h, Vector.getElem_set_ne, hv]
  cases l <;> cases q <;>
    simp [LockReg.reg, LockReg.mask, State.readControl, ConfigBank.put] <;> exact hset _ _ _

theorem LockReg.writeControl (s : State) (l : LockReg) (v : Word) : s.writeControl l.reg v
    = if s.port.configured then s else { s with cfg := s.cfg.put l.reg v } := by
  cases l <;> rfl

theorem LockReg.reg_ne (l : LockReg) : l.reg ≠ .cmd ∧ l.reg ≠ .srcclk := by
  cases l <;> simp [LockReg.reg]

theorem LockReg.put_srcclk (c : ConfigBank) (l : LockReg) (v : Word) : (c.put l.reg v).srcclk = c.srcclk := by
  cases l <;> rfl

theorem portAccessDefined_iff (w : Width) (o : Nat) :
    portAccessDefined w o = true ↔ w = .word ∧ o % 4 = 0 ∧ o < 0x5000 := by
  simp [portAccessDefined, and_assoc]

theorem ControlReg.portAccessDefined_offset {r : ControlReg} (h : r.Exists) :
    portAccessDefined .word r.offset = true := by
  cases r with
  | arg k | waitstat k | waitval k | fbBase k | fbCap k | wdFlags k | wdBufbase k | wdBuflen k | wdStride k | wdYoff k =>
    clear h
    revert k
    decide
  | shadow q =>
    have hall : ∀ q ∈ shadowIds, portAccessDefined .word (0x4000 + q.offset) = true := by decide
    exact hall q h
  | _ => rfl

/-- A host write in the control domain or at a reserved offset, but for SRCCLK in use. -/
theorem State.hostWrite_control {s : State} {o : Nat} {v : Word} (hdef : portAccessDefined .word o = true)
    (hdom : ¬ engineOffset o) (huse : (decide (o = 0x060) && !s.faulted && s.readsClock) = false) :
    s.hostWrite .word o v = .next (s.writePort o v) := by
  unfold State.hostWrite
  rw [if_pos hdef, if_neg (by rwa [domainOf_engine_iff]), huse]
  rfl

/-- A write at a control-domain register's offset while the block has not faulted is that register's write. -/
theorem State.writePort_control {s : State} (hf : s.port.fault = none) {r : ControlReg} (h : r.Exists) (v : Word) :
    s.writePort r.offset v = s.writeControl r v := by
  unfold State.writePort
  rw [r.domainOf_offset h, ControlReg.ofOffset_offset h]
  have hnf := State.not_faulted_of_none hf
  cases r <;> simp [hnf, State.writeControl]

theorem ControlReg.offset_ne_srcclk {r : ControlReg} (h : r.Exists) (hr : r ≠ .srcclk) : r.offset ≠ 0x060 := by
  intro ho
  have hof := ControlReg.ofOffset_offset h
  rw [ho] at hof
  exact hr (Option.some.inj hof).symm

/-- A host write at the offset of any control-domain register but SRCCLK. -/
theorem State.hostWrite_reg {s : State} (hf : s.port.fault = none) {r : ControlReg} (h : r.Exists) (hr : r ≠ .srcclk)
    (v : Word) : s.hostWrite .word r.offset v = .next (s.writeControl r v) := by
  rw [State.hostWrite_control (r.portAccessDefined_offset h) (r.not_engineOffset h)
    (by simp [r.offset_ne_srcclk h hr]), State.writePort_control hf h]

/-- A write of a register that no host write can act on is dropped (rule R79). -/
theorem State.writeControl_readOnly (s : State) {r : ControlReg} (h : r.offset ∉ writableOffsets) (v : Word) :
    s.writeControl r v = s := by
  have hargs : ∀ k : Fin 6, (ControlReg.arg k).offset ∈ writableOffsets := by decide
  have hlock : ∀ l : LockReg, l.reg.offset ∈ writableOffsets := by
    intro l
    have hl : (l.reg.offset, l.mask) ∈ lockMasks := by
      rw [lockMasks_eq]
      exact List.mem_map_of_mem (by cases l <;> simp [LockReg.all])
    exact List.mem_append_right _ (List.mem_map_of_mem hl)
  cases r with
  | cmd => exact absurd (by decide) h
  | srcclk => exact absurd (by decide) h
  | arg k => exact absurd (hargs k) h
  | cfgRes => exact absurd (hlock .res) h
  | cfgVres => exact absurd (hlock .vres) h
  | cfgHtim => exact absurd (hlock .htim) h
  | cfgVtim => exact absurd (hlock .vtim) h
  | cfgRefresh => exact absurd (hlock .refresh) h
  | cfgMisc => exact absurd (hlock .misc) h
  | cfgPhys => exact absurd (hlock .phys) h
  | fbBase i => exact absurd (hlock (.base i)) h
  | fbCap i => exact absurd (hlock (.cap i)) h
  | _ =>
    unfold State.writeControl
    exact ite_self s

/-- A write at an offset that no host write can act on is dropped (rules R21, R79). -/
theorem State.writePort_dropped {s : State} (hf : s.port.fault = none) {o : Nat} (h : o ∉ writableOffsets) (v : Word) :
    s.writePort o v = s := by
  cases hr : ControlReg.ofOffset o with
  | none =>
    unfold State.writePort
    rw [hr]
    split <;> rfl
  | some r =>
    obtain ⟨hex, rfl⟩ := ControlReg.eq_offset_of_ofOffset hr
    rw [State.writePort_control hf hex, s.writeControl_readOnly h]

theorem State.readsClock_iff (s : State) : s.readsClock = true
    ↔ s.busy = true ∧ (decodeWord s.port.cmd = .ok .timing ∨ decodeWord s.port.cmd = .ok .resm) := by
  unfold State.readsClock
  cases decodeWord s.port.cmd with
  | ok i => simp
  | error e => simp

theorem State.hostWrite_engine {s : State} {o : Nat} (halign : o % 4 = 0) (hlt : o < 0x5000) (ho : engineOffset o)
    (v : Word) : s.hostWrite .word o v
      = if s.faulted then .refused (.engineAccessAfterFault o) else if s.power.busclkOn then .next s else .next (s.raise o) := by
  unfold State.hostWrite
  rw [if_pos ((portAccessDefined_iff _ _).mpr ⟨rfl, halign, hlt⟩), if_pos ((domainOf_engine_iff o).mpr ho)]

theorem State.hostRead_engine {s : State} {o : Nat} (halign : o % 4 = 0) (hlt : o < 0x5000) (ho : engineOffset o) :
    s.hostRead .word o = if s.faulted then .refused (.engineAccessAfterFault o)
      else if s.power.busclkOn then .next (s.emit (.readData o (s.portValue o))) else .next (s.raise o) := by
  unfold State.hostRead
  rw [if_pos ((portAccessDefined_iff _ _).mpr ⟨rfl, halign, hlt⟩), if_pos ((domainOf_engine_iff o).mpr ho)]

/-- Settles O10. -/
theorem hostWrites : Obligations.HostWrites := by
  intro s o v hf halign hlt
  have hnf := State.not_faulted_of_none hf
  have hdef : portAccessDefined .word o = true := (portAccessDefined_iff _ _).mpr ⟨rfl, halign, hlt⟩
  refine ⟨?readOnly, ?clocked, ?gated, ?arg, ?srcclk, ?inUse, ?locked, ?lock, ?doorbell⟩
  case readOnly =>
    intro hdom hro
    have hne : o ≠ 0x060 := fun h => hro (h ▸ by decide)
    rw [State.hostWrite_control hdef hdom (by simp [hne]), State.writePort_dropped hf hro]
  case clocked =>
    intro ho hb
    simp [State.hostWrite_engine halign hlt ho, hnf, hb]
  case gated =>
    intro ho hb
    simp [State.hostWrite_engine halign hlt ho, hnf, hb]
  case arg =>
    rintro k rfl
    exact State.hostWrite_reg hf (r := .arg k) trivial (by simp) v
  case srcclk =>
    rintro rfl huse
    have hread : s.readsClock = false := by
      rw [Bool.eq_false_iff, Ne, State.readsClock_iff]
      rcases huse with huse | ⟨htiming, hresm⟩
      · simp [huse]
      · tauto
    rw [State.hostWrite_control hdef (by decide) (by simp [hread])]
    exact congrArg _ (State.writePort_control hf (r := .srcclk) trivial v)
  case inUse =>
    rintro rfl hbusy hcmd
    have hread : s.readsClock = true := s.readsClock_iff.mpr ⟨hbusy, hcmd⟩
    unfold State.hostWrite
    rw [if_pos hdef, if_neg (by decide), hnf, hread]
    rfl
  case locked =>
    intro m hm hconf
    obtain ⟨l, hl⟩ := lockReg_of_mem hm
    obtain ⟨rfl, rfl⟩ := Prod.mk.inj hl
    rw [State.hostWrite_reg hf l.exists_reg l.reg_ne.2, LockReg.writeControl, if_pos hconf]
  case lock =>
    intro m hm hconf
    obtain ⟨l, hl⟩ := lockReg_of_mem hm
    obtain ⟨rfl, rfl⟩ := Prod.mk.inj hl
    refine ⟨s.cfg.put l.reg v, ?_, l.put_srcclk s.cfg v, ?_, fun q hq hne => ?_⟩
    · rw [State.hostWrite_reg hf l.exists_reg l.reg_ne.2, LockReg.writeControl, hconf]
      rfl
    · rw [State.portValue_control _ l.exists_reg, State.readControl_put, if_pos rfl]
    · obtain ⟨p, rfl⟩ := lockReg_of_mem hq
      have hpl : p ≠ l := fun h => hne (by rw [h])
      rw [State.portValue_control _ p.exists_reg, State.portValue_control _ p.exists_reg, State.readControl_put,
        if_neg hpl]
  case doorbell =>
    rintro rfl
    exact State.hostWrite_reg hf (r := .cmd) trivial (by simp) v

/-! ### The faulted block (rule R256) -/

theorem SameBlock.refl (s : State) : SameBlock s s := by
  constructor <;> rfl

/-- After the fault no agent of the block has a step. -/
theorem faulted_turns {s : State} (hf : s.faulted = true) : sequencerTurn s = s ∧ handlerTurn s = s ∧ frameTurn s = s
    ∧ scanTurn s = s ∧ tickTurn s = s := by
  refine ⟨?_, by simp [handlerTurn, hf], by simp [frameTurn, hf], ?_, by simp [tickTurn, hf]⟩
  · unfold sequencerTurn
    split <;> simp [State.sequencerFree, hf]
  · unfold scanTurn
    split <;> simp [hf]

/-- After the fault a host access has no step in the engine domain, and elsewhere a doorbell write sets OVERRUN and is the
only trace. -/
theorem faulted_hostWrite {s t : State} {w : Width} {o : Nat} {v : Word} (hf : s.faulted = true)
    (h : s.hostWrite w o v = .next t) :
    t = s ∨ (w = .word ∧ o = 0 ∧ t = { s with port := { s.port with overrun := true } }) := by
  have hdef : portAccessDefined w o = true := by
    by_contra hd
    unfold State.hostWrite at h
    rw [if_neg hd] at h
    cases h
  obtain ⟨rfl, -, -⟩ := (portAccessDefined_iff w o).mp hdef
  rcases hostWrite_next h with rfl | ⟨hnf, -⟩ | rfl
  · exact .inl rfl
  · rw [hf] at hnf; cases hnf
  · rcases writePort_cases s o v with hw | ⟨hcmd, hw⟩ | ⟨hnf, -⟩
    · exact .inl hw
    · obtain ⟨-, ho⟩ := ControlReg.eq_offset_of_ofOffset hcmd
      refine .inr ⟨rfl, ho, ?_⟩
      rw [hw]
      simp [State.doorbell, hf]
    · rw [hf] at hnf; cases hnf

theorem faulted_hostRead {s t : State} {w : Width} {o : Nat} (hf : s.faulted = true)
    (h : s.hostRead w o = .next t) : ∃ x, t = s.emit x := by
  unfold State.hostRead at h
  rw [hf] at h
  (repeat' split at h) <;> cases h
  · exact ⟨_, rfl⟩
  · contradiction
  · exact ⟨_, rfl⟩

theorem SameBlock.emit (s : State) (x : Output) : SameBlock s (s.emit x) := by
  constructor <;> rfl

/-- Settles O44. -/
theorem faultIsQuiescent : Obligations.FaultIsQuiescent := by
  intro s r hr
  have hf : s.faulted = true := State.faulted_of_some hr
  obtain ⟨hseq, hhandler, hframe, hscan, htick⟩ := faulted_turns hf
  refine ⟨fun e t hne he => ?_, fun o v ho halign hlt => ?_, fun hsched => ?_⟩
  · cases e with
    | sequencer => cases he; rw [hseq]; exact ⟨.refl s, .inl rfl⟩
    | handler => cases he; rw [hhandler]; exact ⟨.refl s, .inl rfl⟩
    | frameStart => cases he; rw [hframe]; exact ⟨.refl s, .inl rfl⟩
    | scanOut => cases he; rw [hscan]; exact ⟨.refl s, .inl rfl⟩
    | tick => cases he; rw [htick]; exact ⟨.refl s, .inl rfl⟩
    | hostRead w o =>
      obtain ⟨x, rfl⟩ := faulted_hostRead hf he
      exact ⟨.emit s x, .inl rfl⟩
    | hostWrite w o v =>
      rcases faulted_hostWrite hf he with rfl | ⟨rfl, rfl, rfl⟩
      · exact ⟨.refl t, .inl rfl⟩
      · exact ⟨by constructor <;> rfl, .inr ⟨v, rfl, rfl⟩⟩
    | memRead a => cases he; exact ⟨.emit s _, .inl rfl⟩
    | memWrite u v => cases he; exact ⟨by constructor <;> rfl, .inl rfl⟩
    | domainReady l => cases he; exact ⟨by constructor <;> rfl, .inl rfl⟩
    | reset => exact absurd rfl hne
  · rw [State.hostRead_engine halign hlt ho, State.hostWrite_engine halign hlt ho, hf]
    exact ⟨rfl, rfl⟩
  · simp [step, hsched, hr]

end Sys2Proof.Machine
end

-- ==== The commands, run undisturbed ====
section
/-! PROOFS. What each command does when nothing comes between its micro-steps: its refusals, its whole effect with the bus
clock on, and its fault with the bus clock off (rules R140 to R143, R154 to R173, R182 to R188, R218, R232 to R244). -/

namespace Sys2Proof.Machine

variable {s : State}

/-! ### The arms of `exec` (rule R100) -/

theorem exec_timing (s : State) : exec .timing s = execTiming s := rfl
theorem exec_outon (s : State) : exec .outon s = execOuton s := rfl
theorem exec_outoff (s : State) : exec .outoff s = execOutoff s := rfl
theorem exec_wpan (s : State) (win : Nat) : exec (.wpan win) s = execWpan win s := rfl
theorem exec_wen (s : State) (win : Nat) : exec (.wen win) s = execWen win s := rfl
theorem exec_wdis (s : State) (win : Nat) : exec (.wdis win) s = execWdis win s := rfl
theorem exec_susp (s : State) : exec .susp s = execSusp s := rfl
theorem exec_resm (s : State) : exec .resm s = execResm s := rfl

/-! ### A first `RegWrite` with the bus clock off (rules R40, R256) -/

theorem launch_gated (h : s.undisturbed) (hb : s.power.busclkOn = false) (r : RegId) (keep set : Word)
    (rest : List MicroOp) : ∃ u, launch s (.regShadow r keep set :: rest) = .next u
      ∧ FaultedAt s u r (s.composed r keep set) 1 :=
  ⟨_, launch_undisturbed h _, complete_first_gated h.free hb r keep set rest⟩

theorem launch_masked_gated (h : s.undisturbed) (hb : s.power.busclkOn = false) (r : RegId) (keep set : Word)
    (rest : List MicroOp) : ∃ u, launch s (.maskEnter :: .regShadow r keep set :: rest) = .next u
      ∧ FaultedAt s u r (s.composed r keep set) 2 :=
  ⟨_, launch_undisturbed h _, complete_masked_gated h.free hb r keep set rest⟩

/-! ### TIMING, OUTON, OUTOFF -/

/-- The six writes of the calculator's results with nothing in between (rules R140, R237). -/
theorem complete_timingWrites (h : s.free) (hb : s.clocked) (t : TimingImage) (keep : Word) (rest : List MicroOp) :
    complete (s.withCsq (.running (timingWrites t keep ++ rest)))
      = complete ((s.writeAll (timingList t ((s.shadow.ctrl &&& keep) ||| (word t.clkval <<< 8)))).withCsq
          (.running rest)) := by
  show complete (s.withCsq (.running (.regShadow .ctrl keep (word t.clkval <<< 8)
    :: (([(.timv, t.timv), (.timh, t.timh), (.timsize, t.timsize), (.timpol, t.timpol),
      (.dither, t.dither)] : List (RegId × Word)).map (fun w => MicroOp.regShadow w.1 0 w.2) ++ rest)))) = _
  rw [complete_regWrite _ h hb,
    complete_writes (State.free_regWrite h _ _) (State.clocked_regWrite hb _ _) _ _ (by simp)]
  have hctrl : s.composed .ctrl keep (word t.clkval <<< 8) = (s.shadow.ctrl &&& keep) ||| (word t.clkval <<< 8) := rfl
  simp only [hctrl, timingList, State.writeAll_cons]

theorem timing_clocked (h : s.undisturbed) (hb : s.clocked) (hc : s.port.configured = false) {t : TimingImage}
    (ht : s.cfg.timingCalc = some t) :
    exec .timing s = .next (State.finish
      { s.writeAll (timingList t ((s.shadow.ctrl &&& 0x00000001#32) ||| (word t.clkval <<< 8))) with
        port := { s.port with configured := true } } .ok (word t.div)) := by
  rw [exec_timing, execTiming, hc, ht]
  simp only [Bool.false_eq_true, if_false]
  rw [launch_undisturbed h, timingSteps, complete_timingWrites h.free hb,
    complete_commitTiming _ (State.free_writeAll h.free _), State.writeAll_port]
  rfl

theorem timing_gated (h : s.undisturbed) (hb : s.power.busclkOn = false) (hc : s.port.configured = false)
    {t : TimingImage} (ht : s.cfg.timingCalc = some t) : ∃ u, exec .timing s = .next u
      ∧ FaultedAt s u .ctrl ((s.shadow.ctrl &&& 0x00000001#32) ||| (word t.clkval <<< 8)) 1 := by
  rw [exec_timing, execTiming, hc, ht]
  exact launch_gated h hb .ctrl 0x00000001 (word t.clkval <<< 8) _

theorem outon_clocked (h : s.undisturbed) (hb : s.clocked) (hc : s.port.configured = true) :
    exec .outon s = .next ((s.writeAll [(.inten, 0x00000001), (.ctrl, s.shadow.ctrl ||| 0x00000001#32)]).finish .ok 0) := by
  rw [exec_outon, execOuton, if_pos hc, launch_undisturbed h]
  show Host.Outcome.next (complete (s.withCsq (.running (.regShadow .inten 0 0x00000001
    :: .regShadow .ctrl 0xFFFFFFFF 0x00000001 :: [.returnOk])))) = _
  rw [complete_regWrite _ h.free hb, complete_regWrite _ (State.free_regWrite h.free _ _) (State.clocked_regWrite hb _ _),
    complete_returnOk _ (State.free_regWrite (State.free_regWrite h.free _ _) _ _), State.composed_zero,
    State.composed_ones]
  rfl

theorem outon_gated (h : s.undisturbed) (hb : s.power.busclkOn = false) (hc : s.port.configured = true) :
    ∃ u, exec .outon s = .next u ∧ FaultedAt s u .inten 0x00000001 1 := by
  have hgated := launch_gated h hb .inten 0 0x00000001 (regUpdateSteps .ctrl 0xFFFFFFFF 0x00000001 ++ [.returnOk])
  rw [State.composed_zero] at hgated
  rw [exec_outon, execOuton, if_pos hc]
  exact hgated

theorem outoff_clocked (h : s.undisturbed) (hb : s.clocked) :
    exec .outoff s = .next ((s.writeAll [(.ctrl, s.shadow.ctrl &&& ~~~0x00000001#32)]).finish .ok 0) := by
  rw [exec_outoff, execOutoff, launch_undisturbed h]
  show Host.Outcome.next (complete (s.withCsq (.running (.regShadow .ctrl (~~~0x00000001#32) 0 :: [.returnOk])))) = _
  rw [complete_regWrite _ h.free hb, complete_returnOk _ (State.free_regWrite h.free _ _), State.composed_or_zero]
  rfl

theorem outoff_gated (h : s.undisturbed) (hb : s.power.busclkOn = false) :
    ∃ u, exec .outoff s = .next u ∧ FaultedAt s u .ctrl (s.shadow.ctrl &&& ~~~0x00000001#32) 1 := by
  have hgated := launch_gated h hb .ctrl (~~~0x00000001#32) 0 [.returnOk]
  rw [State.composed_or_zero] at hgated
  exact hgated

/-! ### WEN and WDIS (rules R172, R173) -/

/-- The one write of WINCTL[i] and the record of the enable, with the bus clock on. -/
theorem complete_enable (h : s.free) (hb : s.clocked) (i : Win) (keep set : Word) (on : Bool) :
    complete (s.withCsq (.running (regUpdateSteps (.win i .ctl) keep set ++ [.commitEnable i on])))
      = State.finish { s.regWrite (.win i .ctl) (s.composed (.win i .ctl) keep set) with
          windows := s.windows.set i { s.windows[i] with enabled := on } } .ok 0 := by
  show complete (s.withCsq (.running (.regShadow (.win i .ctl) keep set :: [.commitEnable i on]))) = _
  rw [complete_regWrite _ h hb, complete_commitEnable _ (State.free_regWrite h _ _)]
  rfl

theorem wen_ready (i : Win) (hc : s.port.configured = true) (hb : s.windows[i].buffer.isSome = true) :
    exec (.wen i.val) s
      = launch s (regUpdateSteps (.win i .ctl) 0xFFFFFFFF 0x00000001 ++ [.commitEnable i true]) := by
  rw [exec_wen, execWen, if_pos hc, onWindow_valid, if_pos hb]

theorem wdis_ready (i : Win) (hc : s.port.configured = true) :
    exec (.wdis i.val) s = launch s (regUpdateSteps (.win i .ctl) (~~~0x00000001#32) 0 ++ [.commitEnable i false]) := by
  rw [exec_wdis, execWdis, if_pos hc, onWindow_valid]

theorem wen_clocked (h : s.undisturbed) (hb : s.clocked) (i : Win) (hc : s.port.configured = true)
    (hbuf : s.windows[i].buffer.isSome = true) :
    exec (.wen i.val) s = .next (State.finish
      { s.regWrite (.win i .ctl) (RegId.wired (.win i .ctl) (s.shadow.win[i].ctl ||| 0x00000001#32)) with
        windows := s.windows.set i { s.windows[i] with enabled := true } } .ok 0) := by
  rw [wen_ready i hc hbuf, launch_undisturbed h, complete_enable h.free hb, State.composed_ones]
  rfl

theorem wdis_clocked (h : s.undisturbed) (hb : s.clocked) (i : Win) (hc : s.port.configured = true) :
    exec (.wdis i.val) s = .next (State.finish
      { s.regWrite (.win i .ctl) (RegId.wired (.win i .ctl) (s.shadow.win[i].ctl &&& ~~~0x00000001#32)) with
        windows := s.windows.set i { s.windows[i] with enabled := false } } .ok 0) := by
  rw [wdis_ready i hc, launch_undisturbed h, complete_enable h.free hb, State.composed_or_zero]
  rfl

/-- Settles O29. -/
theorem wenCommand : Obligations.WenCommand := by
  intro s
  refine ⟨fun win hc => by rw [exec_wen, execWen, hc]; rfl,
    fun win hc hwin => by rw [exec_wen, execWen, if_pos hc, onWindow_invalid hwin],
    fun i hc => ⟨fun hnone => ?_, fun hbuf h hb => wen_clocked h hb i hc hbuf, fun hbuf h hb => ?_⟩⟩
  · rw [exec_wen, execWen, if_pos hc, onWindow_valid, if_neg (by rw [hnone]; decide)]
    rfl
  · have hgated := launch_gated h hb (.win i .ctl) 0xFFFFFFFF 0x00000001 [.commitEnable i true]
    rw [State.composed_ones] at hgated
    rw [wen_ready i hc hbuf]
    exact hgated

/-- WINCTL takes a value whole on windows 0 and 1, and without BUFSEL above (rule R31, log entry 21). -/
theorem RegId.wired_ctl (i : Win) (v : Word) :
    RegId.wired (.win i .ctl) v = if 2 ≤ i.val then v &&& ~~~0x00000002#32 else v := rfl

/-- Clearing a bit of WINCTL that is clear writes the value that stands there. -/
theorem wired_clear_clear (i : Win) (v : Word) :
    RegId.wired (.win i .ctl) (RegId.wired (.win i .ctl) (v &&& ~~~0x00000001#32) &&& ~~~0x00000001#32)
      = RegId.wired (.win i .ctl) (v &&& ~~~0x00000001#32) := by
  have hidem : ∀ a b : Word, a &&& b &&& b = a &&& b := fun a b => by rw [BitVec.and_assoc, BitVec.and_self]
  rw [RegId.wired_ctl, RegId.wired_ctl]
  split
  · rw [BitVec.and_assoc (v &&& ~~~1#32), BitVec.and_comm (~~~2#32) (~~~1#32), ← BitVec.and_assoc (v &&& ~~~1#32),
      hidem, hidem]
  · exact hidem _ _

/-- Writing to WINCTL[i] the value it holds in both copies counts the write and changes nothing else. -/
theorem State.regWrite_same {t : State} (i : Win) {v : Word} (hs : t.shadow.win[i].ctl = v)
    (he : t.engine.regs.win[i].ctl = v) : t.regWrite (.win i .ctl) v = { t with hwwrcnt := t.hwwrcnt + 1 } := by
  have hput : ∀ e : EngineRegs, e.win[i].ctl = v → e.put (.win i .ctl) v = e := by
    intro e h
    subst h
    show ({ e with win := e.win.set i e.win[i] } : EngineRegs) = e
    simp
  have hengine : t.engine.writeReg (.win i .ctl) v = t.engine := by
    rw [Engine.writeReg_ne_ctrl _ (by simp), hput _ he]
  exact State.eq_of_fields rfl rfl rfl rfl rfl rfl (hput _ hs) rfl rfl hengine rfl

/-- A second WDIS finds WIN_EN clear in both copies and `enabled` false, so it counts its write and changes nothing
else. -/
theorem wdis_again (h : s.undisturbed) (hb : s.clocked) (i : Win) (hc : s.port.configured = true) {t : State}
    (ht : exec (.wdis i.val) s = .next t) : exec (.wdis i.val) t = .next { t with hwwrcnt := t.hwwrcnt + 1 } := by
  rw [wdis_clocked h hb i hc] at ht
  obtain rfl := Host.Outcome.next.inj ht
  generalize hv : RegId.wired (.win i .ctl) (s.shadow.win[i].ctl &&& ~~~0x00000001#32) = v
  generalize hu : State.finish { s.regWrite (.win i .ctl) v with
    windows := s.windows.set i { s.windows[i] with enabled := false } } .ok 0 = u
  have hfields := State.regWrite_get s (.win i .ctl) (.win i .ctl) v
  rw [if_pos rfl, if_pos rfl] at hfields
  have hshadow : u.shadow.win[i].ctl = v := by rw [← hu]; exact hfields.1
  have hengine : u.engine.regs.win[i].ctl = v := by rw [← hu]; exact hfields.2
  have hwindow : u.windows[i] = { s.windows[i] with enabled := false } := by rw [← hu]; simp
  have hundisturbed : u.undisturbed := by rw [← hu]; exact h
  have hagain : RegId.wired (.win i .ctl) (u.shadow.win[i].ctl &&& ~~~0x00000001#32) = v := by
    rw [hshadow, ← hv, wired_clear_clear]
  have hrecord : u.windows.set i { u.windows[i] with enabled := false } = u.windows := by
    rw [hwindow, ← hu]
    simp
  rw [wdis_clocked hundisturbed (by rw [← hu]; exact hb) i (by rw [← hu]; exact hc), hagain,
    State.regWrite_same i hshadow hengine, hrecord, ← hu]
  rfl

/-- Settles O30. -/
theorem wdisCommand : Obligations.WdisCommand := by
  intro s
  refine ⟨fun win hc => by rw [exec_wdis, execWdis, hc]; rfl,
    fun win hc hwin => by rw [exec_wdis, execWdis, if_pos hc, onWindow_invalid hwin],
    fun i hc h => ⟨fun hb => wdis_clocked h hb i hc, fun hb t => wdis_again h hb i hc, fun hb => ?_⟩⟩
  have hgated := launch_gated h hb (.win i .ctl) (~~~0x00000001#32) 0 [.commitEnable i false]
  rw [State.composed_or_zero] at hgated
  rw [wdis_ready i hc]
  exact hgated

end Sys2Proof.Machine
end

-- ==== The window and palette commands, run undisturbed ====
section
/-! PROOFS. WPAN, WCFG, PSET, PFLUSH and VWAIT with nothing between their micro-steps (rules R154 to R166, R182 to R188,
R218). -/

namespace Sys2Proof.Machine

variable {s : State}

/-! ### WPAN (rules R164 to R166) -/

/-- WPAN's write of BUFSEL on the old shadow `sh`, when it differs from the half. -/
def bufselList (sh : EngineRegs) (i : Win) (half : Bool) : List (RegId × Word) :=
  if sh.bufsel i = half then []
  else [(.win i .ctl, RegId.wired (.win i .ctl) ((sh.win[i].ctl &&& ~~~0x00000002#32) ||| (flagWord half <<< 1)))]

/-- The writes of WPAN between the two of ALATCH, on the old shadow `sh`. -/
def wpanMiddle (sh : EngineRegs) (i : Win) (p : PanPlan) : List (RegId × Word) :=
  (.win i (startReg p.half), addressWord p.start) :: (.win i (endReg p.half), addressWord p.stop)
    :: bufselList sh i p.half

theorem startReg_ne_ctl (half : Bool) : startReg half ≠ .ctl := by
  cases half <;> decide

theorem endReg_ne_ctl (half : Bool) : endReg half ≠ .ctl := by
  cases half <;> decide

theorem complete_bufsel (i : Win) (half : Bool) {t : State} (after : List MicroOp) (h : t.free) (hb : t.clocked)
    (hctl : t.shadow.get (.win i .ctl) = s.shadow.win[i].ctl) :
    complete (t.withCsq (.running (bufselSteps s.shadow i half ++ after)))
      = complete ((t.writeAll (bufselList s.shadow i half)).withCsq (.running after)) := by
  unfold bufselSteps bufselList
  split
  · rfl
  · show complete (t.withCsq (.running (.regShadow (.win i .ctl) _ _ :: after))) = _
    rw [complete_regWrite _ h hb, State.composed, hctl]
    rfl

/-- How a command runs those writes. -/
theorem complete_wpanMiddle (i : Win) (p : PanPlan) {t : State} (after : List MicroOp) (h : t.free) (hb : t.clocked)
    (hctl : t.shadow.win[i].ctl = s.shadow.win[i].ctl) :
    complete (t.withCsq (.running ((regWriteSteps (.win i (startReg p.half)) (addressWord p.start)
        ++ regWriteSteps (.win i (endReg p.half)) (addressWord p.stop) ++ bufselSteps s.shadow i p.half) ++ after)))
      = complete ((t.writeAll (wpanMiddle s.shadow i p)).withCsq (.running after)) := by
  have hstart := startReg_ne_ctl p.half
  have hend := endReg_ne_ctl p.half
  have hctl' : ((t.regWrite (.win i (startReg p.half)) (addressWord p.start)).regWrite (.win i (endReg p.half))
      (addressWord p.stop)).shadow.get (.win i .ctl) = s.shadow.win[i].ctl := by
    rw [State.regWrite_shadow, EngineRegs.get_put_ne _ (by simpa using hend.symm), State.regWrite_shadow,
      EngineRegs.get_put_ne _ (by simpa using hstart.symm)]
    exact hctl
  show complete (t.withCsq (.running (.regShadow (.win i (startReg p.half)) 0 (addressWord p.start)
    :: .regShadow (.win i (endReg p.half)) 0 (addressWord p.stop) :: (bufselSteps s.shadow i p.half ++ after)))) = _
  rw [complete_regWrite _ h hb, State.composed_zero, RegId.wired_win_ne_ctl i hstart,
    complete_regWrite _ (State.free_regWrite h _ _) (State.clocked_regWrite hb _ _), State.composed_zero,
    RegId.wired_win_ne_ctl i hend, complete_bufsel i p.half after (State.free_regWrite (State.free_regWrite h _ _) _ _)
      (State.clocked_regWrite (State.clocked_regWrite hb _ _) _ _) hctl', wpanMiddle, State.writeAll_cons,
    State.writeAll_cons]

theorem wpan_ready (i : Win) (hc : s.port.configured = true) {p : PanPlan}
    (hp : s.windows[i].panPlan s.panArg = some p) : exec (.wpan i.val) s = launch s (wpanSteps s i p s.panArg) := by
  rw [exec_wpan, execWpan, if_pos hc, onWindow_valid, hp]

theorem wpan_clocked (h : s.undisturbed) (hb : s.clocked) (i : Win) (hc : s.port.configured = true) {p : PanPlan}
    (hp : s.windows[i].panPlan s.panArg = some p) :
    exec (.wpan i.val) s = .next (State.finish
      { s.writeAll (wpanList s.shadow i p) with
        windows := s.windows.set i (s.windows[i].panned s.panArg p.half) } .ok 0) := by
  have hlatch : lastWrite (wpanMiddle s.shadow i p) .alatch = none := by
    unfold wpanMiddle bufselList
    split <;> simp [lastWrite]
  have hrun := complete_latched h.free hb i _ (wpanMiddle s.shadow i p) [.commitPan i s.panArg p.half]
    (fun t after ht htb hctl => complete_wpanMiddle i p after ht htb hctl) hlatch
  have hlist : [(RegId.alatch, s.shadow.alatch &&& ~~~(oneHot i.val))] ++ wpanMiddle s.shadow i p
      ++ [(.alatch, s.shadow.alatch ||| oneHot i.val)] = wpanList s.shadow i p := by
    simp [wpanMiddle, bufselList, wpanList]
  have hsteps : wpanSteps s i p s.panArg = maskedSteps (regUpdateSteps .alatch (~~~(oneHot i.val)) 0
      ++ (regWriteSteps (.win i (startReg p.half)) (addressWord p.start)
        ++ regWriteSteps (.win i (endReg p.half)) (addressWord p.stop) ++ bufselSteps s.shadow i p.half)
      ++ regUpdateSteps .alatch 0xFFFFFFFF (oneHot i.val)) ++ [.commitPan i s.panArg p.half] := by
    simp [wpanSteps, List.append_assoc]
  rw [wpan_ready i hc hp, launch_undisturbed h, hsteps, hrun, hlist,
    complete_commitPan _ (State.free_writeAll h.free _), State.setWindow, State.writeAll_windows]

theorem wpan_gated (h : s.undisturbed) (hb : s.power.busclkOn = false) (i : Win) (hc : s.port.configured = true)
    {p : PanPlan} (hp : s.windows[i].panPlan s.panArg = some p) :
    ∃ u, exec (.wpan i.val) s = .next u ∧ FaultedAt s u .alatch (s.shadow.alatch &&& ~~~(oneHot i.val)) 2 := by
  rw [wpan_ready i hc hp]
  have hgated := fun rest => launch_masked_gated h hb .alatch (~~~(oneHot i.val)) 0 rest
  rw [State.composed_or_zero] at hgated
  exact hgated _

/-- The addresses of a pan as its rule lists them (rules R165, R166). -/
theorem Window.panPlan_eq_some {d : Window} {b : Buffer} {y : Nat} {p : PanPlan} (hb : d.buffer = some b)
    (hfit : y * d.lineStride + d.height * d.lineStride ≤ b.length) (hstart : p.start = b.base.toNat + y * d.lineStride)
    (hstop : p.stop = p.start + d.height * d.lineStride)
    (hhalf : p.half = true ↔ b.double = true ∧ b.length / 2 ≤ y * d.lineStride) : d.panPlan y = some p := by
  have hhalf' : p.half = (b.double && decide (b.length / 2 ≤ y * d.lineStride)) := by
    rw [Bool.eq_iff_iff, hhalf]
    simp
  obtain ⟨start, stop, half⟩ := p
  simp only at hstart hstop hhalf'
  subst hstart hstop hhalf'
  unfold Window.panPlan
  rw [hb]
  exact if_pos hfit

theorem addressWords_hold : addressWordsHold :=
  ⟨fun _ h => word_toNat h, by decide⟩

/-- Settles O26. -/
theorem wpanCommand : Obligations.WpanCommand := by
  refine ⟨fun _ => rfl, addressWords_hold, fun s => ⟨fun win hc => by rw [exec_wpan, execWpan, hc]; rfl,
    fun win hc hwin => by rw [exec_wpan, execWpan, if_pos hc, onWindow_invalid hwin], fun i hc => ⟨fun hnone => ?_,
    fun b hbuf => ⟨fun hpast => ?_, fun p hfit hstart hstop hhalf h => ?_⟩⟩⟩⟩
  · rw [exec_wpan, execWpan, if_pos hc, onWindow_valid, Window.panPlan, hnone]
    rfl
  · rw [exec_wpan, execWpan, if_pos hc, onWindow_valid, Window.panPlan, hbuf]
    simp only
    rw [if_neg (by unfold Window.visible; omega)]
    rfl
  · have hp := Window.panPlan_eq_some hbuf hfit hstart hstop hhalf
    refine ⟨fun hb => ?_, fun hb => wpan_gated h hb i hc hp⟩
    rw [wpan_clocked h hb i hc hp, Window.panned, hbuf]
    rfl

/-! ### WCFG (rules R154 to R159) -/

theorem exec_wcfg (s : State) (win : Nat) (fmt : BitVec 2) (se db bl pd : Bool) :
    exec (.wcfg win fmt se db bl pd) s = execWcfg win fmt se db bl pd s := rfl

/-- The address writes of WCFG between the two of ALATCH. -/
def wcfgMiddle (i : Win) (l : Layout) (base : Word) (db : Bool) : List (RegId × Word) :=
  [(.win i .start0, base), (.win i .end0, addressWord (base.toNat + l.visible))]
    ++ (if i.val ≤ 1 then
          [(.win i .start1, addressWord (setOneStart l base db)),
           (.win i .end1, addressWord (setOneStart l base db + l.visible))]
        else [])

/-- A list of `RegWrite`s with values that do not depend on the shadow, as micro-steps. -/
def writeSteps (ws : List (RegId × Word)) : List MicroOp := ws.map fun w => .regShadow w.1 0 w.2

theorem addressSteps_eq (i : Win) (l : Layout) (base : Word) (db : Bool) : addressSteps i l base db
    = maskedSteps (regUpdateSteps .alatch (~~~(oneHot i.val)) 0 ++ writeSteps (wcfgMiddle i l base db)
        ++ regUpdateSteps .alatch 0xFFFFFFFF (oneHot i.val)) := by
  unfold addressSteps wcfgMiddle
  split <;> rfl

theorem programSteps_eq (i : Win) (f : Format) (l : Layout) (a : WcfgArgs) (se bl : Bool) :
    programSteps i f l a se (if bl then some a.blendRecord else none)
      = writeSteps (wcfgProgramList i f a l se bl) := by
  by_cases hi : 1 ≤ i.val <;> cases se <;> simp [programSteps, wcfgProgramList, writeSteps, regWriteSteps, hi]

/-- No mode code has BUFSEL set, so WINCTL takes it whole on every window (rules R31, R156). -/
theorem Format.wired_mode (f : Format) (i : Win) : RegId.wired (.win i .ctl) f.mode = f.mode
    ∧ RegId.wired (.win i .ctl) (f.mode ||| 0x00000001#32) = f.mode ||| 0x00000001#32 := by
  rw [RegId.wired_ctl, RegId.wired_ctl]
  split <;> cases f <;> decide

theorem wcfgMiddle_wired (i : Win) (l : Layout) (base : Word) (db : Bool) :
    ∀ w ∈ wcfgMiddle i l base db, w.1.wired w.2 = w.2 := by
  intro w hw
  unfold wcfgMiddle at hw
  simp only [List.mem_append, List.mem_cons, List.not_mem_nil, or_false] at hw
  rcases hw with (rfl | rfl) | hw
  · rfl
  · rfl
  · split at hw
    · simp only [List.mem_cons, List.not_mem_nil, or_false] at hw
      rcases hw with rfl | rfl <;> rfl
    · cases hw

theorem wcfgProgramList_wired (i : Win) (f : Format) (a : WcfgArgs) (l : Layout) (se bl : Bool) :
    ∀ w ∈ wcfgProgramList i f a l se bl, w.1.wired w.2 = w.2 := by
  intro w hw
  unfold wcfgProgramList at hw
  simp only [List.mem_append, List.mem_cons, List.not_mem_nil, or_false] at hw
  rcases hw with ((rfl | rfl | rfl | rfl) | hw) | hw
  · rfl
  · rfl
  · rfl
  · exact (f.wired_mode i).1
  · split at hw
    · simp only [List.mem_cons, List.not_mem_nil, or_false] at hw
      rcases hw with rfl | rfl <;> rfl
    · cases hw
  · split at hw
    · simp only [List.mem_cons, List.not_mem_nil, or_false] at hw
      subst hw
      exact (f.wired_mode i).2
    · cases hw

/-- Every micro-step of WCFG after its checks, with the bus clock on. -/
theorem complete_wcfgSteps (h : s.free) (hb : s.clocked) (i : Win) (f : Format) (l : Layout) (se db bl pd : Bool) :
    complete (s.withCsq (.running (wcfgSteps s i f l se db bl pd))) = State.finish
      { (s.filled i f l).writeAll (wcfgAddressList s.shadow.alatch i l s.cfg.fbBase[i] db
            ++ wcfgProgramList i f s.wcfgArgs l se bl) with
        windows := s.windows.set i (windowRecord f s.wcfgArgs l s.cfg.fbBase[i] se db bl pd)
        pend := s.pend.reformat i f } .ok 0 := by
  generalize hlast : MicroOp.commitWindow i (windowRecord f s.wcfgArgs l s.cfg.fbBase[i] se db bl pd) = last
  have hfill : ∀ rest, complete (s.withCsq (.running (zeroFillSteps s.windows[i] f l s.cfg.fbBase[i] ++ rest)))
      = complete ((s.filled i f l).withCsq (.running rest)) := by
    intro rest
    unfold zeroFillSteps State.filled
    split
    · rfl
    · exact complete_zeroFill rest h _ _
  have hlatch : lastWrite (wcfgMiddle i l s.cfg.fbBase[i] db) .alatch = none := by
    unfold wcfgMiddle
    split <;> simp [lastWrite]
  generalize hu : s.filled i f l = u at hfill ⊢
  have hsame : u = { s with env := u.env } := by
    rw [← hu]
    unfold State.filled
    split <;> rfl
  have hu_free : u.free := by rw [hsame]; exact h
  have hu_clocked : u.clocked := by rw [hsame]; exact hb
  have hlatched := fun rest => complete_latched hu_free hu_clocked i (writeSteps (wcfgMiddle i l s.cfg.fbBase[i] db))
    (wcfgMiddle i l s.cfg.fbBase[i] db) rest
    (fun t after ht htb _ => complete_writes ht htb _ _ (wcfgMiddle_wired i l s.cfg.fbBase[i] db)) hlatch
  have halatch : u.shadow.alatch = s.shadow.alatch := by rw [hsame]
  have hlist : [(RegId.alatch, u.shadow.alatch &&& ~~~(oneHot i.val))] ++ wcfgMiddle i l s.cfg.fbBase[i] db
      ++ [(.alatch, u.shadow.alatch ||| oneHot i.val)] = wcfgAddressList s.shadow.alatch i l s.cfg.fbBase[i] db := by
    rw [halatch]
    simp [wcfgMiddle, wcfgAddressList]
  have hprogram := fun (t : State) (ht : t.free) (htb : t.clocked) rest =>
    complete_writes ht htb (wcfgProgramList i f s.wcfgArgs l se bl) rest
      (wcfgProgramList_wired i f s.wcfgArgs l se bl)
  unfold wcfgSteps
  rw [hlast, List.append_assoc, List.append_assoc, hfill, addressSteps_eq, hlatched, hlist, programSteps_eq, writeSteps,
    hprogram _ (State.free_writeAll hu_free _) (State.clocked_writeAll hu_clocked _), ← hlast,
    complete_commitWindow _ (State.free_writeAll (State.free_writeAll hu_free _) _), State.writeAll_pend,
    State.writeAll_pend, ← State.writeAll_append]
  have hpend : u.pend = s.pend := by rw [hsame]
  have hwindows : u.windows = s.windows := by rw [hsame]
  rw [hpend, State.setWindow, State.writeAll_windows, hwindows]
  rfl

theorem wcfg_ready (i : Win) {fmt : BitVec 2} {se db bl pd : Bool} {f : Format} {l : Layout}
    (hc : s.port.configured = true) (hcheck : wcfgCheck s.cfg i fmt db bl s.wcfgArgs = .ok (f, l)) :
    exec (.wcfg i.val fmt se db bl pd) s = launch s (wcfgSteps s i f l se db bl pd) := by
  rw [exec_wcfg, execWcfg, if_pos hc, onWindow_valid, hcheck]

theorem wcfg_clocked (h : s.undisturbed) (hb : s.clocked) (i : Win) {fmt : BitVec 2} {se db bl pd : Bool} {f : Format}
    {l : Layout} (hc : s.port.configured = true) (hcheck : wcfgCheck s.cfg i fmt db bl s.wcfgArgs = .ok (f, l)) :
    exec (.wcfg i.val fmt se db bl pd) s = .next (State.finish
      { (s.filled i f l).writeAll (wcfgAddressList s.shadow.alatch i l s.cfg.fbBase[i] db
            ++ wcfgProgramList i f s.wcfgArgs l se bl) with
        windows := s.windows.set i (windowRecord f s.wcfgArgs l s.cfg.fbBase[i] se db bl pd)
        pend := s.pend.reformat i f } .ok 0) := by
  rw [wcfg_ready i hc hcheck, launch_undisturbed h, complete_wcfgSteps h.free hb]

theorem wcfg_gated (h : s.undisturbed) (hb : s.power.busclkOn = false) (i : Win) {fmt : BitVec 2} {se db bl pd : Bool}
    {f : Format} {l : Layout} (hc : s.port.configured = true)
    (hcheck : wcfgCheck s.cfg i fmt db bl s.wcfgArgs = .ok (f, l)) :
    ∃ u, exec (.wcfg i.val fmt se db bl pd) s = .next u
      ∧ FaultedAt (s.filled i f l) u .alatch (s.shadow.alatch &&& ~~~(oneHot i.val)) 2 := by
  rw [wcfg_ready i hc hcheck]
  have hmasked := fun (t : State) (ht : t.free) (htb : t.power.busclkOn = false) rest =>
    complete_masked_gated ht htb .alatch (~~~(oneHot i.val)) 0 rest
  refine ⟨_, launch_undisturbed h _, ?_⟩
  unfold wcfgSteps zeroFillSteps State.filled
  split
  · have hgated := fun rest => hmasked s h.free hb rest
    rw [State.composed_or_zero] at hgated
    exact hgated _
  · rw [List.append_assoc, List.append_assoc, List.singleton_append, complete_zeroFill _ h.free]
    have hgated := fun rest =>
      hmasked { s with env := { s.env with mem := s.env.mem.zeroed s.cfg.fbBase[i].toNat l.length } } h.free hb rest
    rw [State.composed_or_zero] at hgated
    exact hgated _

/-! ### PSET, PFLUSH and VWAIT (rules R182 to R188, R218) -/

theorem exec_pflush (s : State) (win : Nat) : exec (.pflush win) s = execPflush win s := rfl
theorem exec_vwait (s : State) (slot : Nat) : exec (.vwait slot) s = execVwait slot s := rfl

theorem pflush_ready (i : Win) (hf : s.windows[i].format = some .indexed8) :
    exec (.pflush i.val) s = launch s (pflushSteps i s.windows[i].palDefer) := by
  rw [exec_pflush, execPflush, onWindow_valid, onIndexed, if_pos hf]

theorem pflush_deferred (h : s.undisturbed) (i : Win) (hf : s.windows[i].format = some .indexed8)
    (hd : s.windows[i].palDefer = true) :
    exec (.pflush i.val) s = .next (State.finish { s with pend := s.pend.setRequest i true } .ok 0) := by
  rw [pflush_ready i hf, hd, launch_undisturbed h]
  show Host.Outcome.next (complete (s.withCsq (.running (.requestFlush i :: [.returnOk])))) = _
  rw [complete_requestFlush _ h.free, complete_returnOk]
  exact h.free

theorem State.free_flushed (h : s.free) (i : Win) : (s.flushed i).free := by
  unfold State.flushed
  split <;> exact h

/-- Entering and leaving the mask around a flush is the flush (rules R41, R184). -/
theorem State.mask_flushed_unmask (s : State) (i : Win) : (s.mask.flushed i).unmask = s.flushed i := by
  unfold State.flushed
  show State.unmask (match s.pend.dirty[i], s.pend.table[i] with | true, some t => _ | true, none => _ | false, _ => _) = _
  cases s.pend.dirty[i] <;> cases s.pend.table[i] <;> rfl

theorem pflush_clocked (h : s.undisturbed) (hb : s.clocked) (i : Win) (hf : s.windows[i].format = some .indexed8)
    (hd : s.windows[i].palDefer = false) : exec (.pflush i.val) s = .next ((s.flushed i).finish .ok 0) := by
  have hmask : s.mask.free := h.free
  rw [pflush_ready i hf, hd, launch_undisturbed h]
  show Host.Outcome.next (complete (s.withCsq (.running (.maskEnter :: .flushStart i :: .maskLeave :: [.returnOk])))) = _
  rw [complete_maskEnter _ h.free, complete_flush hmask hb, complete_maskLeave _ (State.free_flushed hmask i),
    State.mask_flushed_unmask, complete_returnOk _ (State.free_flushed h.free i)]

theorem pflush_clean (h : s.undisturbed) (i : Win) (hf : s.windows[i].format = some .indexed8)
    (hd : s.windows[i].palDefer = false) (hclean : s.pend.dirty[i] = false) :
    exec (.pflush i.val) s = .next (s.finish .ok 0) := by
  have hmask : s.mask.free := h.free
  rw [pflush_ready i hf, hd, launch_undisturbed h]
  show Host.Outcome.next (complete (s.withCsq (.running (.maskEnter :: .flushStart i :: .maskLeave :: [.returnOk])))) = _
  rw [complete_maskEnter _ h.free, complete_flushStart _ hmask, State.mask_pend, hclean, if_neg (by decide),
    List.nil_append, complete_maskLeave _ hmask, State.mask_unmask, complete_returnOk _ h.free]

theorem pflush_gated (h : s.undisturbed) (hb : s.power.busclkOn = false) (i : Win)
    (hf : s.windows[i].format = some .indexed8) (hd : s.windows[i].palDefer = false) (hdirty : s.pend.dirty[i] = true) :
    ∃ u, exec (.pflush i.val) s = .next u ∧ FaultedAt s u .palctl (s.shadow.palctl ||| oneHot i.val) 2 := by
  have hmask : s.mask.free := h.free
  rw [pflush_ready i hf, hd, launch_undisturbed h]
  refine ⟨_, rfl, ?_⟩
  show FaultedAt s (complete (s.withCsq (.running (.maskEnter :: .flushStart i :: .maskLeave :: [.returnOk])))) _ _ _
  rw [complete_maskEnter _ h.free, complete_flushStart _ hmask, State.mask_pend, hdirty, if_pos rfl,
    State.flushSteps_append, complete_regWrite_gated _ hmask hb, State.composed_ones]
  exact ⟨_, rfl⟩

end Sys2Proof.Machine
end

-- ==== SUSP and RESM ====
section
/-! PROOFS. SUSP and RESM with nothing between their micro-steps, and a RESM whose domain becomes ready late (rules R232 to
R244). -/

namespace Sys2Proof.Machine

variable {s : State}

/-! ### SUSP (rules R232 to R236) -/

/-- SUSP from Active: the snapshot, the idle-pin request, the settle wait, the gating. -/
theorem susp_undisturbed (h : s.undisturbed) (hp : s.power.pstate ≠ .suspended) :
    exec .susp s = .next (State.finish
      { s with
        power := { pstate := .suspended, busclkOn := false, pixclkOn := false, snapshot := some s.shadow,
                   settle := 0, retry := s.power.retry }
        vsync := (State.ticked Config.settleTicks s).vsync
        engine := Engine.lost s.env.draws
        env := { s.env with draws := s.env.draws + 1, out := .idlePinsReq :: s.env.out } } .ok 0) := by
  generalize hu : ({ s with
    power := { s.power with pstate := .suspending, snapshot := some s.shadow, settle := Config.settleTicks }
    env := { s.env with out := .idlePinsReq :: s.env.out } } : State) = u
  have hu_free : u.free := by rw [← hu]; exact h.free
  have hsettle : u.power.settle = Config.settleTicks := by rw [← hu]
  have hsteps : complete (s.withCsq (.running suspSteps))
      = complete (u.withCsq (.running [.gateWhenSettled, .enterSuspended])) := by
    rw [suspSteps, complete_enterSuspending _ h.free, complete_capture _ (by exact h.free),
      complete_idlePins _ (by exact h.free), complete_startSettle _ (by exact h.free), ← hu]
    rfl
  have hticked_free : (State.ticked Config.settleTicks u).gateClocks.free := by
    rw [State.ticked_eq]
    exact ⟨hu_free.1, (State.ticked_handler _ u).trans hu_free.2⟩
  rw [exec_susp, execSusp, if_neg hp, launch_undisturbed h, hsteps, complete_gateWhenSettled _ hu_free _ hsettle,
    complete_enterSuspended _ hticked_free, State.ticked_eq, State.ticked_vsync _ u s (by rw [← hu]), hsettle,
    Nat.sub_self, ← hu]
  rfl

theorem susp_suspended (hp : s.power.pstate = .suspended) : exec .susp s = .next (s.finish .ok 0) := by
  rw [exec_susp, execSusp, if_pos hp]
  rfl

/-! ### RESM (rules R237 to R242) -/

/-- The values that RESM s5 writes, none without a snapshot. -/
def restoreWrites : Option EngineRegs → List (RegId × Word)
  | some snap => restoreList snap
  | none => []

/-- The block that RESM leaves when it succeeds: restored, re-derived with `t`, OUT_EN written last, Active. -/
def State.resumed (s : State) (snap : Option EngineRegs) (t : TimingImage) : State :=
  State.finish
    { ((s.writeAll (restoreWrites snap)).rederived t).regWrite .ctrl
        (((s.writeAll (restoreWrites snap)).rederived t).shadow.ctrl ||| snapshotOutEn snap) with
      power := { s.power with pstate := .active, snapshot := none } } .ok 0

theorem State.rederived_eq (s : State) (t : TimingImage) : s.rederived t
    = s.writeAll (if s.port.configured then
        timingList t ((s.shadow.ctrl &&& 0xFFFF00FE#32) ||| (word t.clkval <<< 8)) else []) := by
  unfold State.rederived
  split <;> rfl

theorem complete_restoreWrites (h : s.free) (hb : s.clocked) (snap : Option EngineRegs) (rest : List MicroOp) :
    complete (s.withCsq (.running ((snapshotList snap).flatMap restoreSteps ++ rest)))
      = complete ((s.writeAll (restoreWrites snap)).withCsq (.running rest)) := by
  cases snap with
  | none => rfl
  | some snap => exact complete_restore h hb snap rest

/-- RESM s5 to s9 with a re-derivation that succeeds. -/
theorem complete_resumeSteps (h : s.free) (hb : s.clocked) (snap : Option EngineRegs) {t : TimingImage}
    (ht : s.port.configured = true → s.cfg.timingCalc = some t) :
    complete (s.withCsq (.running (resumeSteps snap))) = s.resumed snap t := by
  generalize hr : s.writeAll (restoreWrites snap) = r
  have hr_free : r.free := by rw [← hr]; exact State.free_writeAll h _
  have hr_clocked : r.clocked := by rw [← hr]; exact State.clocked_writeAll hb _
  have hr_timing : r.port.configured = true → r.cfg.timingCalc = some t := by
    rw [← hr, State.writeAll_port, State.writeAll_cfg]; exact ht
  generalize hd : r.rederived t = d
  have hd_free : d.free := by rw [← hd, State.rederived_eq]; exact State.free_writeAll hr_free _
  have hd_clocked : d.clocked := by rw [← hd, State.rederived_eq]; exact State.clocked_writeAll hr_clocked _
  have hd_power : d.power = s.power := by
    rw [← hd, State.rederived_eq, State.writeAll_power, ← hr, State.writeAll_power]
  have hsteps : complete (s.withCsq (.running (resumeSteps snap)))
      = complete (d.withCsq (.running (.regShadow .ctrl 0xFFFFFFFF (snapshotOutEn snap)
          :: [.dropSnapshot, .enterActive]))) := by
    rw [resumeSteps, List.append_assoc, List.append_assoc, complete_restoreWrites h hb, hr, ← hd]
    exact complete_rederived hr_free hr_clocked t hr_timing _
  have hw_free := State.free_regWrite hd_free .ctrl (d.composed .ctrl 0xFFFFFFFF (snapshotOutEn snap))
  rw [hsteps, complete_regWrite _ hd_free hd_clocked, complete_dropSnapshot _ hw_free,
    complete_enterActive _ (by exact hw_free),
    State.resumed, hr, hd, State.composed_ones, ← hd_power]
  rfl

/-- RESM s5 and s6 with a re-derivation that is refused: the fail path. -/
theorem complete_resumeSteps_refused (h : s.free) (hb : s.clocked) (snap : Option EngineRegs)
    (hc : s.port.configured = true) (ht : s.cfg.timingCalc = none) :
    complete (s.withCsq (.running (resumeSteps snap))) = (s.writeAll (restoreWrites snap)).resumeGivenUp := by
  have hr_free := State.free_writeAll h (restoreWrites snap)
  rw [resumeSteps, List.append_assoc, List.append_assoc, complete_restoreWrites h hb]
  show complete ((s.writeAll (restoreWrites snap)).withCsq (.running (.rederive :: _))) = _
  rw [complete_rederive_illegal _ hr_free (by rw [State.writeAll_port]; exact hc)
    (by rw [State.writeAll_cfg]; exact ht), complete_resumeFail hr_free]

/-- RESM s2, s3 and the first half of s4. -/
theorem complete_resmSteps (h : s.free) :
    complete (s.withCsq (.running resmSteps)) = complete (s.powered.withCsq (.running [.pollReady])) := by
  rw [resmSteps, complete_enterResuming _ h, complete_clocksOn _ (by exact h), complete_retryClear _ (by exact h)]
  rfl

theorem resm_active (hp : s.power.pstate = .active) : exec .resm s = .next (s.finish .ok 0) := by
  rw [exec_resm, execResm, if_pos hp]
  rfl

theorem resm_launch (h : s.undisturbed) (hp : s.power.pstate ≠ .active) :
    exec .resm s = .next (complete (s.powered.withCsq (.running [.pollReady]))) := by
  rw [exec_resm, execResm, if_neg hp, launch_undisturbed h, complete_resmSteps h.free]

/-- RESM with a domain that never becomes ready: the budget used up, the fail path. -/
theorem resm_never_ready (h : s.undisturbed) (hp : s.power.pstate ≠ .active) (hr : s.env.domainReady = false) :
    exec .resm s = .next (State.resumeGivenUp { s with power := { s.power with retry := Config.retryBudget } }) := by
  have hfree : s.powered.free := h.free
  rw [resm_launch h hp, complete_pollReady_never [] hfree hr (Config.retryBudget - 1)
    (by show 0 + (Config.retryBudget - 1) + 1 = _; unfold Config.retryBudget; omega), complete_resumeFail (by exact hfree)]
  rfl

/-- RESM with a ready domain and a re-derivation that is refused. -/
theorem resm_refused (h : s.undisturbed) (hp : s.power.pstate ≠ .active) (hr : s.env.domainReady = true)
    (hc : s.port.configured = true) (ht : s.cfg.timingCalc = none) :
    exec .resm s = .next (s.powered.writeAll (restoreWrites s.power.snapshot)).resumeGivenUp := by
  have hfree : s.powered.free := h.free
  have hclocked : s.powered.clocked := rfl
  rw [resm_launch h hp, complete_pollReady _ hfree hr, List.append_nil]
  exact congrArg _ (complete_resumeSteps_refused hfree hclocked _ hc ht)

/-- RESM with a ready domain that comes to its end. -/
theorem resm_resumes (h : s.undisturbed) (hp : s.power.pstate ≠ .active) (hr : s.env.domainReady = true)
    {t : TimingImage} (ht : s.port.configured = true → s.cfg.timingCalc = some t) :
    exec .resm s = .next (s.powered.resumed s.power.snapshot t) := by
  have hfree : s.powered.free := h.free
  have hclocked : s.powered.clocked := rfl
  rw [resm_launch h hp, complete_pollReady _ hfree hr, List.append_nil]
  exact congrArg _ (complete_resumeSteps hfree hclocked _ ht)

/-! ### A poll that succeeds late (rule R238) -/

/-- While a command runs, the next scheduled choice is performed (log entry 3). -/
theorem runScheduled_cons {e : Event} {es : List Event} {t : State} (hb : s.busy = true)
    (he : eventStep e { s with env := { s.env with schedule := es } } = .next t) :
    runScheduled (e :: es) s = runScheduled es t := by
  conv_lhs => unfold runScheduled
  rw [if_pos hb, he]

/-- A scheduled turn of the sequencer in the middle of a command is the command's next micro-step. -/
theorem runScheduled_sequencer (h : s.free) {op : MicroOp} {rest : List MicroOp}
    (hw : waitsForSettle op s.power.settle = false) (es : List Event) :
    runScheduled (.sequencer :: es) (s.withCsq (.running (op :: rest)))
      = runScheduled es (sequencerStep op rest
          (State.withCsq { s with env := { s.env with schedule := es } } (.running (op :: rest)))) := by
  refine runScheduled_cons rfl (congrArg Host.Outcome.next ?_)
  have hfree : State.sequencerFree (State.withCsq { s with env := { s.env with schedule := es } } (.running (op :: rest)))
      = true := (State.sequencerFree_iff _).mpr h
  show (if State.sequencerFree _ && !waitsForSettle op s.power.settle then _ else _) = _
  rw [hw]
  exact if_pos (by rw [Bool.not_false, Bool.and_true]; exact hfree)

/-- A poll that fails within the budget. -/
theorem sequencerStep_poll (hr : s.env.domainReady = false) (hlt : s.power.retry + 1 < Config.retryBudget) :
    sequencerStep .pollReady [] (s.withCsq (.running [.pollReady]))
      = State.withCsq { s with power := { s.power with retry := s.power.retry + 1 } } (.running [.pollReady]) := by
  have hm : microStep .pollReady (s.withCsq (.running [.pollReady]))
      = (State.withCsq { s with power := { s.power with retry := s.power.retry + 1 } } (.running [.pollReady]),
         .go [.pollReady]) := by
    show microPoll _ = _
    unfold microPoll
    rw [if_neg (by show ¬ s.env.domainReady = true; rw [hr]; decide), if_pos (by exact hlt)]
    rfl
  unfold sequencerStep
  rw [hm]
  rfl

/-- `k` polls of a domain that is not ready, fewer than the budget allows. -/
theorem runScheduled_polls (k : Nat) (es : List Event) (h : s.free) (hr : s.env.domainReady = false)
    (hk : s.power.retry + k < Config.retryBudget) (hes : s.env.schedule = List.replicate k .sequencer ++ es) :
    runScheduled (List.replicate k .sequencer ++ es) (s.withCsq (.running [.pollReady]))
      = runScheduled es (State.withCsq
          { s with
            power := { s.power with retry := s.power.retry + k }
            env := { s.env with schedule := es } } (.running [.pollReady])) := by
  induction k generalizing s with
  | zero =>
    have hsame : ({ s with env := { s.env with schedule := es } } : State) = s := by
      rw [← (by simpa using hes : s.env.schedule = es)]
    exact congrArg (fun u => runScheduled es (State.withCsq u _)) hsame.symm
  | succ k ih =>
    rw [List.replicate_succ, List.cons_append, runScheduled_sequencer h rfl,
      sequencerStep_poll (s := { s with env := { s.env with schedule := List.replicate k .sequencer ++ es } }) hr
        (by show s.power.retry + 1 < _; omega)]
    rw [ih (s := { s with
      power := { s.power with retry := s.power.retry + 1 }
      env := { s.env with schedule := List.replicate k .sequencer ++ es } }) h hr (by show s.power.retry + 1 + k < _; omega)
      rfl]
    have hadd : s.power.retry + 1 + k = s.power.retry + (k + 1) := by omega
    simp only [hadd]

/-- Three scheduled turns of the sequencer take RESM to its first poll. -/
theorem runScheduled_resmSteps (h : s.free) (es : List Event) :
    runScheduled (.sequencer :: .sequencer :: .sequencer :: es) (s.withCsq (.running resmSteps))
      = runScheduled es (State.withCsq { s.powered with env := { s.env with schedule := es } } (.running [.pollReady])) := by
  have hresuming := runScheduled_sequencer h (op := .enterResuming) (rest := [.clocksOn, .retryClear, .pollReady]) rfl
    (.sequencer :: .sequencer :: es)
  have hclocks := runScheduled_sequencer (s := { s with
    power := { s.power with pstate := .resuming }
    env := { s.env with schedule := .sequencer :: .sequencer :: es } }) h (op := .clocksOn)
    (rest := [.retryClear, .pollReady]) rfl (.sequencer :: es)
  have hretry := runScheduled_sequencer (s := { s with
    power := { s.power with pstate := .resuming, busclkOn := true, pixclkOn := true }
    env := { s.env with schedule := .sequencer :: es } }) h (op := .retryClear) (rest := [.pollReady]) rfl es
  exact (hresuming.trans hclocks).trans hretry

/-- RESM with a domain that becomes ready after `k` failed polls. -/
theorem resm_ready_late (h : s.undisturbed) (hp : s.power.pstate ≠ .active) (hr : s.env.domainReady = false) {k : Nat}
    (hk : k < Config.retryBudget) {t : TimingImage} (ht : s.port.configured = true → s.cfg.timingCalc = some t) :
    exec .resm { s with env := { s.env with schedule := List.replicate (3 + k) .sequencer ++ [.domainReady true] } }
      = .next (State.resumed { (s.setReady true).powered with power := { s.powered.power with retry := k } }
          s.power.snapshot t) := by
  have hlist : List.replicate (3 + k) Event.sequencer ++ [.domainReady true]
      = .sequencer :: .sequencer :: .sequencer :: (List.replicate k .sequencer ++ [.domainReady true]) := by
    rw [Nat.add_comm, List.replicate_succ, List.replicate_succ, List.replicate_succ]
    rfl
  generalize hu : ({ s with env := { s.env with
    schedule := List.replicate (3 + k) .sequencer ++ [.domainReady true] } } : State) = u
  have hu_free : u.free := by rw [← hu]; exact h.free
  have hu_schedule : u.env.schedule
      = .sequencer :: .sequencer :: .sequencer :: (List.replicate k .sequencer ++ [.domainReady true]) := by
    rw [← hu]
    exact hlist
  rw [exec_resm, execResm, if_neg (by rw [← hu]; exact hp), launch, hu_schedule, runScheduled_resmSteps hu_free,
    runScheduled_polls k _ (by exact hu_free) (by show u.env.domainReady = _; rw [← hu]; exact hr)
      (by show 0 + k < _; omega) rfl, ← hu]
  show Host.Outcome.next (complete (State.withCsq
    { (s.setReady true).powered with
      power := { s.powered.power with retry := 0 + k }, env := { (s.setReady true).env with schedule := [] } }
    (.running [.pollReady]))) = _
  have hempty : ({ (s.setReady true).env with schedule := [] } : Platform) = (s.setReady true).env := by
    rw [← (by exact h.2.2 : (s.setReady true).env.schedule = [])]
  rw [hempty, Nat.zero_add, complete_pollReady _ (by exact h.free) rfl, List.append_nil]
  exact congrArg _ (complete_resumeSteps (by exact h.free) (by exact rfl) _ ht)

/-! ### RESM whole -/

/-- `RegWrite`s do not look at the power sequencer's fields. -/
theorem State.writeAll_withPower (l : List (RegId × Word)) (p : Power) :
    State.writeAll { s with power := p } l = { s.writeAll l with power := p } := by
  induction l generalizing s with
  | nil => rfl
  | cons w l ih => exact ih (s := s.regWrite w.1 w.2)

theorem State.rederived_withPower (t : TimingImage) (p : Power) :
    State.rederived { s with power := p } t = { s.rederived t with power := p } := by
  rw [State.rederived_eq, State.rederived_eq]
  exact State.writeAll_withPower _ p

/-- The retry counter alone tells a late success from an immediate one. -/
theorem State.resumed_withPower (p : Power) (snap : Option EngineRegs) (t : TimingImage) :
    State.resumed { s with power := p } snap t
      = State.finish
          { ((s.writeAll (restoreWrites snap)).rederived t).regWrite .ctrl
              (((s.writeAll (restoreWrites snap)).rederived t).shadow.ctrl ||| snapshotOutEn snap) with
            power := { p with pstate := .active, snapshot := none } } .ok 0 := by
  unfold State.resumed
  rw [State.writeAll_withPower, State.rederived_withPower]
  rfl

/-- Settles O40. -/
theorem resmCommand : Obligations.ResmCommand := by
  intro s
  refine ⟨resm_active, fun hp h => resm_never_ready h hp, fun snap hp h hr hsnap => ⟨fun hc ht => ?_, fun t ht => ?_⟩,
    fun snap t k hp h hr hsnap hk ht => ?_⟩
  · rw [resm_refused h hp hr hc ht, hsnap]
    rfl
  · rw [resm_resumes h hp hr ht, hsnap]
    rfl
  · rw [resm_ready_late h hp hr hk ht, State.resumed_withPower, hsnap]
    rfl

end Sys2Proof.Machine
end

-- ==== A handler run ====
section
/-! PROOFS. The interrupt handler: when it is entered, what its run leaves, and where VSYNC_PEND moves (rules R261 to R263,
R259). -/

namespace Sys2Proof.Machine

variable {s : State}

/-! ### The entry (rule R261) -/

theorem State.handlerMayEnter_iff (s : State) : s.handlerMayEnter = true ↔
    s.vsync.handler = .idle ∧ s.engine.intpend = true ∧ s.vsync.maskdepth = 0 ∧ s.power.busclkOn = true := by
  simp [State.handlerMayEnter, and_assoc]

theorem handlerTurn_idle (hh : s.vsync.handler = .idle)
    (h : s.engine.intpend = false ∨ s.vsync.maskdepth ≠ 0 ∨ s.power.busclkOn = false ∨ s.port.fault ≠ none) :
    handlerTurn s = s := by
  rcases handlerTurn_cases s with ht | ⟨hf, -, he, -⟩ | ⟨op, rest, -, hr, -⟩
  · exact ht
  · obtain ⟨-, hi, hm, hb⟩ := s.handlerMayEnter_iff.mp he
    simp [hf, hi, hm, hb] at h
  · rw [hh] at hr; cases hr

theorem handlerTurn_enters (hf : s.port.fault = none) (he : s.handlerMayEnter = true) :
    handlerTurn s = s.handlerEnter := by
  obtain ⟨hh, -⟩ := s.handlerMayEnter_iff.mp he
  have hfaulted : s.faulted = false := by simp [State.faulted, hf]
  unfold handlerTurn
  rw [hfaulted, hh, he]
  rfl

/-! ### The run (rule R262) -/

/-- A flush touches neither the port, the clocks nor the handler. -/
theorem State.served_frame (s : State) (i : Win) :
    (s.served i).port = s.port ∧ (s.served i).power = s.power ∧ (s.served i).vsync = s.vsync := by
  unfold State.served State.flushed
  split
  · split <;> exact ⟨rfl, rfl, rfl⟩
  · exact ⟨rfl, rfl, rfl⟩

theorem State.foldl_served_frame (l : List Win) (s : State) :
    (l.foldl State.served s).port = s.port ∧ (l.foldl State.served s).power = s.power
      ∧ (l.foldl State.served s).vsync = s.vsync := by
  induction l generalizing s with
  | nil => exact ⟨rfl, rfl, rfl⟩
  | cons i l ih =>
    obtain ⟨hp, hw, hv⟩ := ih (s.served i)
    obtain ⟨hp', hw', hv'⟩ := s.served_frame i
    exact ⟨hp.trans hp', hw.trans hw', hv.trans hv'⟩

/-- Handler h4 for windows in order. -/
theorem complete_handling_serves (h : s.port.fault = none) (hb : s.clocked) (l : List Win) (rest : List MicroOp) :
    complete (s.withHandler (.running (l.map MicroOp.serveFlush ++ rest)))
      = complete ((l.foldl State.served s).withHandler (.running rest)) := by
  induction l generalizing s with
  | nil => rfl
  | cons i l ih =>
    obtain ⟨hp, hw, -⟩ := s.served_frame i
    have h' : (s.served i).port.fault = none := by rw [hp]; exact h
    have hb' : (s.served i).clocked := by unfold State.clocked; rw [hw]; exact hb
    rw [List.map_cons, List.cons_append, complete_handling_serve h hb]
    exact ih h' hb'

/-- Handler h5. -/
theorem complete_handlerReturn (h : s.port.fault = none) (hh : s.vsync.handler = .idle) :
    complete (s.withHandler (.running [.handlerReturn])) = complete s := by
  have hleft : (s.withHandler (.running [.handlerReturn])).handlerLeave = s := by
    have hv : ({ s.vsync with handler := .idle } : Vsync) = s.vsync := by rw [← hh]
    show ({ s with vsync := { s.vsync with handler := .idle } } : State) = s
    rw [hv]
  rw [complete_handling h]
  exact congrArg complete hleft

/-- h1 to h3 done: the interrupt acknowledged, one vsync counted, every waiting slot woken. -/
def State.woken (s : State) : State :=
  { s with
    engine := { s.engine with intpend := false }
    vsync := { s.vsync with
      vscount := s.vsync.vscount + 1
      waiters := s.vsync.waiters.map fun w => w.wake (s.vsync.vscount + 1) } }

theorem State.handled_eq (s : State) : s.handled = (List.finRange Config.nwin).foldl State.served s.woken := rfl

/-- A handler run, h1 to h5. -/
theorem complete_handlerEnter (h : s.port.fault = none) (hb : s.clocked) (hh : s.vsync.handler = .idle) :
    complete s.handlerEnter = complete s.handled := by
  obtain ⟨hp, -, hv⟩ := State.foldl_served_frame (List.finRange Config.nwin) s.woken
  have hcount := complete_handling (s := { s with engine := { s.engine with intpend := false } }) h .countVsync
    (.wakeWaiters :: ((List.finRange Config.nwin).map MicroOp.serveFlush ++ [.handlerReturn]))
  have hwake := complete_handling (s := State.countVsync { s with engine := { s.engine with intpend := false } }) h
    .wakeWaiters ((List.finRange Config.nwin).map MicroOp.serveFlush ++ [.handlerReturn])
  have hserve := complete_handling_serves (s := s.woken) h hb (List.finRange Config.nwin) [.handlerReturn]
  have hreturn := complete_handlerReturn (s := (List.finRange Config.nwin).foldl State.served s.woken)
    (by rw [hp]; exact h) (by rw [hv]; exact hh)
  exact ((hcount.trans hwake).trans hserve).trans hreturn

/-- Between commands, the run is all that is left to do. -/
theorem complete_handled (hh : s.vsync.handler = .idle) (hq : s.port.csq = .idle ∨ s.port.csq = .accepted) :
    complete s.handled = s.handled := by
  obtain ⟨hp, -, hv⟩ := State.foldl_served_frame (List.finRange Config.nwin) s.woken
  refine complete_none (autoStep_idle ?_ ?_)
  · rw [State.handled_eq, hv]; exact hh
  · have hport : s.handled.port = s.port := hp
    rw [hport]
    rcases hq with hq | hq <;> rw [hq] <;> rfl

theorem step_handlerEnter (h : s.port.fault = none) (hs : s.env.schedule = []) :
    step s.handlerEnter = .next (complete s.handlerEnter) := by
  have hwaits : s.handlerEnter.commandWaits = false := by
    rw [Bool.eq_false_iff]
    intro hw
    obtain ⟨-, hfree⟩ := s.handlerEnter.commandWaits_iff.mp hw
    cases hfree.2
  have hrunning : (s.handlerEnter.busy || s.handlerEnter.handlerRunning) = true := Bool.or_true _
  have hschedule : s.handlerEnter.env.schedule = [] := hs
  have hfault : s.handlerEnter.port.fault = none := h
  unfold step
  rw [hschedule, hfault]
  show (if s.handlerEnter.commandWaits then _ else if s.handlerEnter.busy || s.handlerEnter.handlerRunning then _ else _) = _
  rw [hwaits, hrunning]
  rfl

/-! ### While it runs the sequencer has no step (rule R263) -/

theorem sequencerTurn_handling (h : s.vsync.handler ≠ .idle) : sequencerTurn s = s := by
  rcases sequencerTurn_cases s with hs | ⟨_, _, -, hh, -⟩
  · exact hs
  · exact absurd hh h

theorem commandWaits_handling (h : s.vsync.handler ≠ .idle) : s.commandWaits = false := by
  rw [Bool.eq_false_iff]
  intro hw
  obtain ⟨-, hfree⟩ := s.commandWaits_iff.mp hw
  exact h hfree.2

theorem step_sequencer_handling (h : s.vsync.handler ≠ .idle) {es : List Event} (hs : s.env.schedule = .sequencer :: es) :
    step s = .next { s with env := { s.env with schedule := es } } := by
  have hturn := sequencerTurn_handling (s := { s with env := { s.env with schedule := es } }) h
  unfold step
  rw [hs]
  show (if decide (Event.sequencer = .sequencer) && s.commandWaits then _ else _) = _
  rw [commandWaits_handling h]
  exact congrArg Host.Outcome.next hturn

/-! ### VSYNC_PEND (rules R35, R259, log entry 29) -/

/-- How one choice moves VSYNC_PEND. -/
structure PendMoves (e : Event) (s t : State) : Prop where
  rises : s.engine.intpend = false → t.engine.intpend = true → e = .frameStart ∧ bit s.engine.regs.inten 0 = true
  falls : s.engine.intpend = true → t.engine.intpend = false →
    (e = .handler ∧ s.vsync.handler = .idle) ∨ e = .reset ∨ t.power.busclkOn = false
      ∨ (bit s.engine.regs.ctrl 0 = true ∧ bit t.engine.regs.ctrl 0 = false)

theorem PendMoves.of_eq {e : Event} {t : State} (h : t.engine.intpend = s.engine.intpend) : PendMoves e s t :=
  ⟨fun h0 h1 => (by simp_all), fun h0 h1 => (by simp_all)⟩

/-- A micro-step never sets it, and clears it by gating or by turning output off. -/
theorem PendMoves.of_microStep (e : Event) (op : MicroOp) {t : State} (he : t.engine = (microStep op s).1.engine)
    (hp : t.power = (microStep op s).1.power) : PendMoves e s t := by
  rcases microStep_intpend op s with h | ⟨h, hcause⟩
  · exact .of_eq (by rw [he, h])
  · refine ⟨fun _ h1 => ?_, fun _ _ => ?_⟩
    · rw [he, h] at h1; cases h1
    · rw [he, hp]
      rcases hcause with hgated | hoff
      · exact .inr (.inr (.inl hgated))
      · exact .inr (.inr (.inr hoff))

theorem frameTurn_pendMoves (s : State) : PendMoves .frameStart s (frameTurn s) := by
  unfold frameTurn
  split
  · cases hi : s.engine.regs.vsyncIe with
    | false => exact .of_eq (by simp [State.frameStart, Engine.frameStartLoad, hi])
    | true => exact ⟨fun _ _ => ⟨rfl, hi⟩, fun _ h1 => by simp [State.frameStart, Engine.frameStartLoad, hi] at h1⟩
  · exact .of_eq rfl

theorem eventStep_pendMoves {e : Event} {s t : State} (he : eventStep e s = .next t) : PendMoves e s t := by
  cases e with
  | sequencer =>
    cases he
    rcases sequencerTurn_cases s with hs | ⟨op, rest, -, -, -, hs⟩ <;> rw [hs]
    · exact .of_eq rfl
    · obtain ⟨c, hc⟩ := sequencerStep_eq op rest s
      rw [hc]
      exact .of_microStep _ op rfl rfl
  | handler =>
    cases he
    rcases handlerTurn_cases s with hs | ⟨-, hh, -, hs⟩ | ⟨op, rest, -, -, hs⟩ <;> rw [hs]
    · exact .of_eq rfl
    · exact ⟨fun _ h1 => (by cases h1), fun _ _ => .inl ⟨rfl, hh⟩⟩
    · obtain ⟨c, hc⟩ := handlerStep_eq op rest s
      rw [hc]
      exact .of_microStep _ op rfl rfl
  | frameStart => cases he; exact frameTurn_pendMoves s
  | scanOut =>
    cases he
    refine .of_eq ?_
    unfold scanTurn
    split
    · rfl
    · split
      · exact State.scanPixel_engine_intpend ..
      · rfl
  | tick =>
    cases he
    refine .of_eq ?_
    unfold tickTurn
    split <;> rfl
  | hostRead w o => exact .of_eq (by rw [hostRead_engine he])
  | hostWrite w o v => exact .of_eq (by rw [hostWrite_engine he])
  | memRead a => cases he; exact .of_eq rfl
  | memWrite u v => cases he; exact .of_eq rfl
  | domainReady l => cases he; exact .of_eq rfl
  | reset => exact ⟨fun _ h1 => (by cases he; cases h1), fun _ _ => .inr (.inl rfl)⟩

/-- Settles O36. -/
theorem handlerRun : Obligations.HandlerRun := by
  refine ⟨fun s hh h => congrArg _ (handlerTurn_idle hh h), fun s hh hi hm hb hf => ?_,
    fun s ops hr => ?_, fun s t e he => ⟨(eventStep_pendMoves he).rises, (eventStep_pendMoves he).falls⟩⟩
  · have henter : s.handlerMayEnter = true := s.handlerMayEnter_iff.mpr ⟨hh, hi, hm, hb⟩
    have hrunning : s.handlerEnter.vsync.handler ≠ .idle := by intro h; cases h
    generalize hu : ({ s with env := { s.env with schedule := [] } } : State) = u
    have huf : u.port.fault = none := by rw [← hu]; exact hf
    have hub : u.clocked := by rw [← hu]; exact hb
    have huh : u.vsync.handler = .idle := by rw [← hu]; exact hh
    have huenters : eventStep .handler u = .next u.handlerEnter := by
      rw [← hu] at huf ⊢
      exact congrArg Host.Outcome.next (handlerTurn_enters huf (by exact henter))
    refine ⟨⟨s.handlerEnter, congrArg _ (handlerTurn_enters hf henter), rfl, rfl, rfl, hrunning⟩, fun hq hs => ?_,
      fun ops hq => ?_⟩
    · have huq : u.port.csq = .idle ∨ u.port.csq = .accepted := by rw [← hu]; exact hq
      refine ⟨u.handlerEnter, ?_, ?_, ?_, ?_, ?_⟩
      · unfold step
        rw [hs]
        exact (congrArg (eventStep .handler) hu).trans huenters
      · rw [← hu]; rfl
      · rw [← hu]; rfl
      · rw [← hu]; exact hrunning
      · rw [step_handlerEnter huf (by rw [← hu]), complete_handlerEnter huf hub huh, complete_handled huh huq]
    · have hbusy : s.busy = true := by simp [State.busy, hq]
      rw [runScheduled_cons hbusy ((congrArg (eventStep .handler) hu).trans huenters),
        ← complete_handlerEnter huf hub huh]
      rfl
  · have hne : s.vsync.handler ≠ .idle := by rw [hr]; intro h; cases h
    refine ⟨congrArg _ (sequencerTurn_handling hne), ?_, fun es hs => step_sequencer_handling hne hs⟩
    rw [Bool.eq_false_iff]
    exact fun h => hne (s.handlerMayEnter_iff.mp h).1

end Sys2Proof.Machine
end

-- ==== What a command leaves ====
section
/-! PROOFS. The block that each command leaves when nothing comes between its micro-steps: one case per effect. The
statements about every command go through these cases. -/

namespace Sys2Proof.Machine

variable {s : State}

/-- The blocks that a command can leave, run undisturbed. -/
inductive Leaves (s : State) : Instr → State → Prop
  | answered (i : Instr) (r : Result) : Leaves s i (s.finish r 0)
  | faulted (i : Instr) {t : State} {r : RegId} {v : Word} {depth : Nat} (h : FaultedAt s t r v depth) : Leaves s i t
  | faultedFilled (k : Win) (fmt : BitVec 2) (se db bl pd : Bool) (f : Format) (l : Layout) {t : State} {r : RegId}
      {v : Word} {depth : Nat} (h : FaultedAt (s.filled k f l) t r v depth) : Leaves s (.wcfg k.val fmt se db bl pd) t
  | timed (hb : s.clocked) (t : TimingImage) (ctrl : Word) : Leaves s .timing (State.finish
      { s.writeAll (timingList t ctrl) with port := { s.port with configured := true } } .ok (word t.div))
  | turnedOn (hb : s.clocked) (ctrl : Word) : Leaves s .outon ((s.writeAll [(.inten, 1), (.ctrl, ctrl)]).finish .ok 0)
  | turnedOff (hb : s.clocked) (ctrl : Word) : Leaves s .outoff ((s.writeAll [(.ctrl, ctrl)]).finish .ok 0)
  | configured (hb : s.clocked) (k : Win) {fmt : BitVec 2} (se : Bool) {db bl : Bool} (pd : Bool) {f : Format} {l : Layout}
      (hcheck : wcfgCheck s.cfg k fmt db bl s.wcfgArgs = .ok (f, l)) {u : State}
      (hu : u = (s.filled k f l).writeAll (wcfgAddressList s.shadow.alatch k l s.cfg.fbBase[k] db
        ++ wcfgProgramList k f s.wcfgArgs l se bl)) :
      Leaves s (.wcfg k.val fmt se db bl pd) (State.finish
        { u with
          windows := s.windows.set k (windowRecord f s.wcfgArgs l s.cfg.fbBase[k] se db bl pd)
          pend := s.pend.reformat k f } .ok 0)
  | panned (hb : s.clocked) (k : Win) {p : PanPlan} (hp : s.windows[k].panPlan s.panArg = some p) {u : State}
      (hu : u = s.writeAll (wpanList s.shadow k p)) :
      Leaves s (.wpan k.val) (State.finish
        { u with
          windows := s.windows.set k (s.windows[k].panned s.panArg p.half) } .ok 0)
  | enabled (hb : s.clocked) (k : Win) {u : State}
      (hu : u = s.writeAll [(.win k .ctl, RegId.wired (.win k .ctl) (s.shadow.win[k].ctl ||| 0x00000001#32))]) :
      Leaves s (.wen k.val) (State.finish
        { u with
          windows := s.windows.set k { s.windows[k] with enabled := true } } .ok 0)
  | disabled (hb : s.clocked) (k : Win) {u : State}
      (hu : u = s.writeAll [(.win k .ctl, RegId.wired (.win k .ctl) (s.shadow.win[k].ctl &&& ~~~0x00000001#32))]) :
      Leaves s (.wdis k.val) (State.finish
        { u with
          windows := s.windows.set k { s.windows[k] with enabled := false } } .ok 0)
  | stored (k : Win) (idx : Nat) (v : Word) (hf : s.windows[k].format = some .indexed8) :
      Leaves s (.pset k.val idx)
        (State.finish { s with pend := s.pend.store k (Fin.ofNat Config.paletteSize idx) v } .ok 0)
  | requested (k : Win) : Leaves s (.pflush k.val) (State.finish { s with pend := s.pend.setRequest k true } .ok 0)
  | flushed (hb : s.clocked) (k : Win) : Leaves s (.pflush k.val) ((s.flushed k).finish .ok 0)
  | armed (slot : Nat) (k : Fin Config.nslot) (timeout v : Word) :
      Leaves s (.vwait slot) ((s.armSlot k timeout).finish .ok v)
  | suspended (hp : s.power.pstate ≠ .suspended) : Leaves s .susp (State.finish
      { s with
        power := { pstate := .suspended, busclkOn := false, pixclkOn := false, snapshot := some s.shadow,
                   settle := 0, retry := s.power.retry }
        vsync := (State.ticked Config.settleTicks s).vsync
        engine := Engine.lost s.env.draws
        env := { s.env with draws := s.env.draws + 1, out := .idlePinsReq :: s.env.out } } .ok 0)
  | resumed (hp : s.power.pstate ≠ .active) (t : TimingImage) : Leaves s .resm (s.powered.resumed s.power.snapshot t)
  | notReady (hp : s.power.pstate ≠ .active) :
      Leaves s .resm (State.resumeGivenUp { s with power := { s.power with retry := Config.retryBudget } })
  | notTimed (hp : s.power.pstate ≠ .active) :
      Leaves s .resm (s.powered.writeAll (restoreWrites s.power.snapshot)).resumeGivenUp

/-- A command's outcome is one of these blocks. -/
def Answers (s : State) (i : Instr) (o : Host.Outcome State Fault Refusal) : Prop := ∃ t, o = .next t ∧ Leaves s i t

theorem Answers.rejected (s : State) (i : Instr) (r : Result) : Answers s i (reject s r) := ⟨_, rfl, .answered i r⟩

theorem Answers.ofFault {i : Instr} {o : Host.Outcome State Fault Refusal} {r : RegId} {v : Word} {depth : Nat}
    (h : ∃ u, o = .next u ∧ FaultedAt s u r v depth) : Answers s i o := by
  obtain ⟨u, hu, hf⟩ := h
  exact ⟨u, hu, .faulted i hf⟩

theorem Answers.onWindow {win : Nat} {i : Instr} {f : Win → Host.Outcome State Fault Refusal}
    (h : ∀ k : Win, win = k.val → Answers s i (f k)) : Answers s i (onWindow s win f) := by
  rcases Nat.lt_or_ge win Config.nwin with hlt | hge
  · have hvalid := onWindow_valid (s := s) ⟨win, hlt⟩ f
    rw [hvalid]
    exact h ⟨win, hlt⟩ rfl
  · rw [onWindow_invalid hge]
    exact ⟨_, rfl, .answered i _⟩

theorem State.clocked_or (s : State) : s.clocked ∨ s.power.busclkOn = false := by
  unfold State.clocked
  cases s.power.busclkOn <;> simp

theorem timing_answers (h : s.undisturbed) : Answers s .timing (exec .timing s) := by
  cases hc : s.port.configured with
  | true => rw [exec_timing, execTiming, if_pos hc]; exact .rejected s _ _
  | false =>
    cases ht : s.cfg.timingCalc with
    | none => rw [exec_timing, execTiming, hc, ht]; exact .rejected s _ _
    | some t =>
      rcases s.clocked_or with hb | hb
      · exact ⟨_, timing_clocked h hb hc ht, .timed hb t _⟩
      · exact .ofFault (timing_gated h hb hc ht)

theorem outon_answers (h : s.undisturbed) : Answers s .outon (exec .outon s) := by
  cases hc : s.port.configured with
  | false => rw [exec_outon, execOuton, hc]; exact .rejected s _ _
  | true =>
    rcases s.clocked_or with hb | hb
    · exact ⟨_, outon_clocked h hb hc, .turnedOn hb _⟩
    · exact .ofFault (outon_gated h hb hc)

theorem outoff_answers (h : s.undisturbed) : Answers s .outoff (exec .outoff s) := by
  rcases s.clocked_or with hb | hb
  · exact ⟨_, outoff_clocked h hb, .turnedOff hb _⟩
  · exact .ofFault (outoff_gated h hb)

/-- A command that needs a configuration: refused before bring-up, else what it does on its window. -/
theorem Answers.ready {i : Instr} {win : Nat} {f : Win → Host.Outcome State Fault Refusal}
    (h : s.port.configured = true → ∀ k : Win, win = k.val → Answers s i (f k)) :
    Answers s i (if s.port.configured = true then Machine.onWindow s win f else reject s .notReady) := by
  split
  · exact .onWindow (h ‹_›)
  · exact .rejected s i _

theorem wcfg_answers (h : s.undisturbed) (win : Nat) (fmt : BitVec 2) (se db bl pd : Bool) :
    Answers s (.wcfg win fmt se db bl pd) (exec (.wcfg win fmt se db bl pd) s) := by
  refine .ready fun hc k hk => ?_
  subst hk
  cases hcheck : wcfgCheck s.cfg k fmt db bl s.wcfgArgs with
  | error e => exact .rejected s _ e
  | ok r =>
    obtain ⟨f, l⟩ := r
    have hready := wcfg_ready (se := se) (pd := pd) k hc hcheck
    rcases s.clocked_or with hb | hb
    · exact ⟨_, hready.symm.trans (wcfg_clocked h hb k hc hcheck), .configured hb k se pd hcheck rfl⟩
    · obtain ⟨u, hu, hf⟩ := wcfg_gated (se := se) (pd := pd) h hb k hc hcheck
      exact ⟨u, hready.symm.trans hu, .faultedFilled k fmt se db bl pd f l hf⟩

theorem wpan_answers (h : s.undisturbed) (win : Nat) : Answers s (.wpan win) (exec (.wpan win) s) := by
  refine .ready fun hc k hk => ?_
  subst hk
  cases hp : s.windows[k].panPlan s.panArg with
  | none => exact .rejected s _ _
  | some p =>
    have hready := wpan_ready k hc hp
    rcases s.clocked_or with hb | hb
    · exact ⟨_, hready.symm.trans (wpan_clocked h hb k hc hp), .panned hb k hp rfl⟩
    · obtain ⟨u, hu, hf⟩ := wpan_gated h hb k hc hp
      exact ⟨u, hready.symm.trans hu, .faulted _ hf⟩

theorem wen_answers (h : s.undisturbed) (win : Nat) : Answers s (.wen win) (exec (.wen win) s) := by
  refine .ready fun hc k hk => ?_
  subst hk
  split
  · have hbuf : s.windows[k].buffer.isSome = true := ‹_›
    have hready := wen_ready k hc hbuf
    rcases s.clocked_or with hb | hb
    · exact ⟨_, hready.symm.trans (wen_clocked h hb k hc hbuf), .enabled hb k rfl⟩
    · exact .ofFault (launch_gated h hb _ _ _ _)
  · exact .rejected s _ _

theorem wdis_answers (h : s.undisturbed) (win : Nat) : Answers s (.wdis win) (exec (.wdis win) s) := by
  refine .ready fun hc k hk => ?_
  subst hk
  rcases s.clocked_or with hb | hb
  · exact ⟨_, (wdis_ready k hc).symm.trans (wdis_clocked h hb k hc), .disabled hb k rfl⟩
  · exact .ofFault (launch_gated h hb _ _ _ _)

theorem Answers.onIndexed {i : Instr} {k : Win} {o : Host.Outcome State Fault Refusal}
    (h : s.windows[k].format = some .indexed8 → Answers s i o) : Answers s i (onIndexed s k o) := by
  unfold Machine.onIndexed
  split
  · exact h ‹_›
  · exact .rejected s i _

theorem pset_answers (s : State) (win idx : Nat) : Answers s (.pset win idx) (exec (.pset win idx) s) := by
  refine .onWindow fun k hk => .onIndexed fun hf => ?_
  subst hk
  exact ⟨_, rfl, .stored k idx _ hf⟩

theorem pflush_answers (h : s.undisturbed) (win : Nat) : Answers s (.pflush win) (exec (.pflush win) s) := by
  refine .onWindow fun k hk => .onIndexed fun hf => ?_
  subst hk
  rw [← pflush_ready k hf]
  cases hd : s.windows[k].palDefer with
  | true => exact ⟨_, pflush_deferred h k hf hd, .requested k⟩
  | false =>
    rcases s.clocked_or with hb | hb
    · exact ⟨_, pflush_clocked h hb k hf hd, .flushed hb k⟩
    · cases hdirty : s.pend.dirty[k] with
      | true => exact .ofFault (pflush_gated h hb k hf hd hdirty)
      | false => exact ⟨_, pflush_clean h k hf hd hdirty, .answered _ _⟩

theorem vwait_answers (s : State) (slot : Nat) : Answers s (.vwait slot) (exec (.vwait slot) s) := by
  rw [exec_vwait]
  unfold execVwait vwaitOn
  split
  · exact .rejected s _ _
  · exact ⟨_, rfl, .armed slot _ _ _⟩

theorem susp_answers (h : s.undisturbed) : Answers s .susp (exec .susp s) := by
  by_cases hp : s.power.pstate = .suspended
  · exact ⟨_, susp_suspended hp, .answered _ _⟩
  · exact ⟨_, susp_undisturbed h hp, .suspended hp⟩

theorem resm_answers (h : s.undisturbed) : Answers s .resm (exec .resm s) := by
  by_cases hp : s.power.pstate = .active
  · exact ⟨_, resm_active hp, .answered _ _⟩
  · cases hr : s.env.domainReady with
    | false => exact ⟨_, resm_never_ready h hp hr, .notReady hp⟩
    | true =>
      cases hc : s.port.configured with
      | false =>
        exact ⟨_, resm_resumes (t := ⟨0, 0, 0, 0, 0, 0, 0⟩) h hp hr (fun h' => by rw [hc] at h'; cases h'),
          .resumed hp _⟩
      | true =>
        cases ht : s.cfg.timingCalc with
        | none => exact ⟨_, resm_refused h hp hr hc ht, .notTimed hp⟩
        | some t => exact ⟨_, resm_resumes h hp hr (fun _ => ht), .resumed hp t⟩

theorem exec_answers (h : s.undisturbed) (i : Instr) : Answers s i (exec i s) := by
  cases i with
  | timing => exact timing_answers h
  | outon => exact outon_answers h
  | outoff => exact outoff_answers h
  | wcfg win fmt se db bl pd => exact wcfg_answers h win fmt se db bl pd
  | wpan win => exact wpan_answers h win
  | wen win => exact wen_answers h win
  | wdis win => exact wdis_answers h win
  | pset win idx => exact pset_answers s win idx
  | pflush win => exact pflush_answers h win
  | vwait slot => exact vwait_answers s slot
  | susp => exact susp_answers h
  | resm => exact resm_answers h

/-- What every command leaves. -/
theorem exec_leaves {t : State} {i : Instr} (h : s.undisturbed) (he : exec i s = .next t) : Leaves s i t := by
  obtain ⟨u, hu, hl⟩ := exec_answers h i
  rw [hu] at he
  cases he
  exact hl

/-! ### The frame (rules R22, R24, R28, R30, R35, R54, R70, R231) -/

/-- What no command touches. -/
def State.outside (s : State) : Word × Vector Word 6 × Vector Word 6 × Bool × ConfigBank × Word × Nat :=
  (s.port.cmd, s.port.args, s.port.latch, s.port.overrun, s.cfg, s.vsync.vscount, s.frame)

theorem State.outside_writeAll (s : State) (l : List (RegId × Word)) : (s.writeAll l).outside = s.outside := by
  rw [State.writeAll_eq]
  rfl

theorem State.outside_filled (s : State) (k : Win) (f : Format) (l : Layout) : (s.filled k f l).outside = s.outside := by
  unfold State.filled
  split <;> rfl

theorem State.outside_flushed (s : State) (k : Win) : (s.flushed k).outside = s.outside := by
  unfold State.flushed
  split <;> rfl

theorem FaultedAt.outside {t : State} {r : RegId} {v : Word} {depth : Nat} (h : FaultedAt s t r v depth) :
    t.outside = s.outside := by
  obtain ⟨todo, rfl⟩ := h
  rfl

theorem State.outside_resumed (s : State) (snap : Option EngineRegs) (t : TimingImage) :
    (s.resumed snap t).outside = s.outside := by
  have hregs : (((s.writeAll (restoreWrites snap)).rederived t)).outside = s.outside := by
    rw [State.rederived_eq, State.outside_writeAll, State.outside_writeAll]
  exact hregs

theorem Leaves.outside {i : Instr} {t : State} (h : Leaves s i t) : t.outside = s.outside := by
  cases h with
  | faulted _ h => exact h.outside
  | faultedFilled _ _ _ _ _ _ _ _ h => exact h.outside.trans (s.outside_filled _ _ _)
  | timed hb t ctrl =>
    have h := s.outside_writeAll (timingList t ctrl)
    simp only [State.outside, Prod.mk.injEq] at h
    obtain ⟨-, -, -, -, hcfg, hvsync, hframe⟩ := h
    simp only [State.outside, Prod.mk.injEq]
    exact ⟨rfl, rfl, rfl, rfl, hcfg, hvsync, hframe⟩
  | turnedOn => exact s.outside_writeAll _
  | turnedOff => exact s.outside_writeAll _
  | @configured _ k _ _ _ _ _ f l _ u hu =>
    have hregs : u.outside = s.outside := by rw [hu, State.outside_writeAll, State.outside_filled]
    exact hregs
  | @panned _ k p _ u hu =>
    have hregs : u.outside = s.outside := by rw [hu, State.outside_writeAll]
    exact hregs
  | @enabled _ k u hu =>
    have hregs : u.outside = s.outside := by rw [hu, State.outside_writeAll]
    exact hregs
  | @disabled _ k u hu =>
    have hregs : u.outside = s.outside := by rw [hu, State.outside_writeAll]
    exact hregs
  | flushed hb k => exact s.outside_flushed k
  | suspended =>
    have hcount : (State.ticked Config.settleTicks s).vsync.vscount = s.vsync.vscount := State.ticked_vscount _ s
    simp only [State.outside, Prod.mk.injEq]
    exact ⟨rfl, rfl, rfl, rfl, rfl, hcount, rfl⟩
  | resumed hp t => exact s.powered.outside_resumed _ t
  | notTimed => exact s.powered.outside_writeAll _
  | _ => rfl

/-- INTPEND follows the edges of OUT_EN: its fall clears it, and nothing else moves it (log entry 29). -/
def Engine.EdgeOnly (e e' : Engine) : Prop :=
  e'.intpend = if bit e.regs.ctrl 0 = true ∧ bit e'.regs.ctrl 0 = false then false else e.intpend

theorem Engine.EdgeOnly.of_same {e e' : Engine} (hc : e'.regs.ctrl = e.regs.ctrl) (hi : e'.intpend = e.intpend) :
    e.EdgeOnly e' := by
  unfold Engine.EdgeOnly
  rw [hc, hi, if_neg]
  rintro ⟨ht, hf⟩
  rw [ht] at hf
  cases hf

theorem Engine.edgeOnly_writeCtrl (e : Engine) (v : Word) : e.EdgeOnly (e.writeReg .ctrl v) := by
  have hold : e.regs.outEn = bit e.regs.ctrl 0 := rfl
  have hnew : ((e.writeReg .ctrl v).regs.ctrl) = v := by rw [Engine.writeReg_regs]; rfl
  unfold Engine.EdgeOnly
  rw [Engine.writeReg_intpend, EngineRegs.outEn_put_ctrl, hnew, hold]
  cases bit e.regs.ctrl 0 <;> cases bit v 0 <;> simp

theorem lastWrite_eq_none {l : List (RegId × Word)} {q : RegId} (h : ∀ w ∈ l, w.1 ≠ q) : lastWrite l q = none := by
  induction l with
  | nil => rfl
  | cons w l ih =>
    rw [lastWrite_cons, ih fun w' hw' => h w' (List.mem_cons_of_mem _ hw'),
      if_neg fun hq => h w List.mem_cons_self hq.symm]
    rfl

/-- Writes of other registers move neither OUT_EN nor INTPEND. -/
theorem State.edgeOnly_quiet (s : State) {l : List (RegId × Word)} (h : ∀ w ∈ l, w.1 ≠ .ctrl) :
    (s.writeAll l).engine.regs.ctrl = s.engine.regs.ctrl ∧ (s.writeAll l).engine.intpend = s.engine.intpend := by
  have hget := (State.writeAll_get (s := s) l .ctrl).2
  rw [lastWrite_eq_none h] at hget
  exact ⟨hget, State.writeAll_intpend l h⟩

theorem Engine.EdgeOnly.quiet_left {e e' e'' : Engine} (hc : e'.regs.ctrl = e.regs.ctrl) (hi : e'.intpend = e.intpend)
    (h : e'.EdgeOnly e'') : e.EdgeOnly e'' := by
  unfold Engine.EdgeOnly at h ⊢
  rw [h, hc, hi]

theorem Engine.EdgeOnly.quiet_right {e e' e'' : Engine} (h : e.EdgeOnly e') (hc : e''.regs.ctrl = e'.regs.ctrl)
    (hi : e''.intpend = e'.intpend) : e.EdgeOnly e'' := by
  unfold Engine.EdgeOnly at h ⊢
  rw [hi, h, hc]

/-- One write of CTRL among writes of other registers. -/
theorem State.edgeOnly_writeAll (s : State) {pre post : List (RegId × Word)} (v : Word) (hpre : ∀ w ∈ pre, w.1 ≠ .ctrl)
    (hpost : ∀ w ∈ post, w.1 ≠ .ctrl) : s.engine.EdgeOnly (s.writeAll (pre ++ (.ctrl, v) :: post)).engine := by
  obtain ⟨hc, hi⟩ := s.edgeOnly_quiet hpre
  obtain ⟨hc', hi'⟩ := State.edgeOnly_quiet ((s.writeAll pre).regWrite .ctrl v) hpost
  have hctrl : (s.writeAll pre).engine.EdgeOnly ((s.writeAll pre).regWrite .ctrl v).engine :=
    Engine.edgeOnly_writeCtrl _ v
  rw [State.writeAll_append, State.writeAll_cons]
  exact (hctrl.quiet_left hc hi).quiet_right hc' hi'

/-- The power state, the outputs and INTPEND as the commands but SUSP and RESM leave them. -/
def PlainKept (s t : State) : Prop := t.power = s.power ∧ t.env.out = s.env.out ∧ s.engine.EdgeOnly t.engine

theorem PlainKept.refl (s : State) : PlainKept s s := ⟨rfl, rfl, .of_same rfl rfl⟩

theorem PlainKept.writeAll (s : State) {pre post : List (RegId × Word)} (v : Word) (hpre : ∀ w ∈ pre, w.1 ≠ .ctrl)
    (hpost : ∀ w ∈ post, w.1 ≠ .ctrl) : PlainKept s (s.writeAll (pre ++ (.ctrl, v) :: post)) :=
  ⟨State.writeAll_power _, by rw [State.writeAll_env], s.edgeOnly_writeAll v hpre hpost⟩

theorem PlainKept.quiet (s : State) {l : List (RegId × Word)} (h : ∀ w ∈ l, w.1 ≠ .ctrl) :
    PlainKept s (s.writeAll l) := by
  obtain ⟨hc, hi⟩ := s.edgeOnly_quiet h
  exact ⟨State.writeAll_power l, by rw [State.writeAll_env], .of_same hc hi⟩

theorem PlainKept.faulted {t : State} {r : RegId} {v : Word} {depth : Nat} (h : FaultedAt s t r v depth) :
    PlainKept s t := by
  obtain ⟨todo, rfl⟩ := h
  exact PlainKept.refl s

theorem State.flushed_quiet (s : State) (k : Win) : PlainKept s (s.flushed k) := by
  unfold State.flushed
  split <;> exact ⟨rfl, rfl, .of_same rfl rfl⟩

/-- The zero-fill touches memory alone (rule R157). -/
theorem State.filled_eq (s : State) (k : Win) (f : Format) (l : Layout) :
    ∃ m, s.filled k f l = { s with env := { s.env with mem := m } } := by
  unfold State.filled
  split
  · exact ⟨s.env.mem, rfl⟩
  · exact ⟨_, rfl⟩

theorem PlainKept.ofFilled {k : Win} {f : Format} {l : Layout} {t : State} (h : PlainKept (s.filled k f l) t) :
    PlainKept s t := by
  obtain ⟨m, hm⟩ := s.filled_eq k f l
  rw [hm] at h
  exact h

/-- The window commands write no CTRL. -/
theorem wpanList_quiet (sh : EngineRegs) (k : Win) (p : PanPlan) : ∀ w ∈ wpanList sh k p, w.1 ≠ .ctrl := by
  unfold wpanList
  split <;> simp

theorem wcfgAddressList_quiet (latch : Word) (k : Win) (l : Layout) (base : Word) (db : Bool) :
    ∀ w ∈ wcfgAddressList latch k l base db, w.1 ≠ .ctrl := by
  unfold wcfgAddressList
  split <;> simp

theorem wcfgProgramList_quiet (k : Win) (f : Format) (a : WcfgArgs) (l : Layout) (se bl : Bool) :
    ∀ w ∈ wcfgProgramList k f a l se bl, w.1 ≠ .ctrl := by
  unfold wcfgProgramList
  split <;> split <;> simp

theorem wcfgList_quiet (latch : Word) (k : Win) (f : Format) (a : WcfgArgs) (l : Layout) (base : Word) (se db bl : Bool) :
    ∀ w ∈ wcfgAddressList latch k l base db ++ wcfgProgramList k f a l se bl, w.1 ≠ .ctrl := by
  intro w hw
  rcases List.mem_append.mp hw with hw | hw
  · exact wcfgAddressList_quiet latch k l base db w hw
  · exact wcfgProgramList_quiet k f a l se bl w hw

theorem Leaves.plainKept {i : Instr} {t : State} (h : Leaves s i t) (hs : i ≠ .susp) (hr : i ≠ .resm) :
    PlainKept s t := by
  cases h with
  | faulted _ h => exact .faulted h
  | faultedFilled _ _ _ _ _ _ _ _ h => exact (PlainKept.faulted h).ofFilled
  | timed hb t ctrl => exact PlainKept.writeAll s (pre := []) ctrl (by simp) (by simp)
  | turnedOn hb ctrl => exact PlainKept.writeAll s (pre := [(.inten, 1)]) (post := []) ctrl (by simp) (by simp)
  | turnedOff hb ctrl => exact PlainKept.writeAll s (pre := []) (post := []) ctrl (by simp) (by simp)
  | @configured _ k _ se db bl _ f l _ u hu =>
    have hregs : PlainKept s u := by
      rw [hu]
      exact (PlainKept.quiet _ (wcfgList_quiet s.shadow.alatch k f s.wcfgArgs l s.cfg.fbBase[k] se db bl)).ofFilled
    exact hregs
  | @panned _ k p _ u hu =>
    have hregs : PlainKept s u := by rw [hu]; exact .quiet s (wpanList_quiet s.shadow k p)
    exact hregs
  | @enabled _ k u hu =>
    have hregs : PlainKept s u := by rw [hu]; exact .quiet s (by simp)
    exact hregs
  | @disabled _ k u hu =>
    have hregs : PlainKept s u := by rw [hu]; exact .quiet s (by simp)
    exact hregs
  | flushed hb k => exact s.flushed_quiet k
  | suspended => exact absurd rfl hs
  | resumed => exact absurd rfl hr
  | notReady => exact absurd rfl hr
  | notTimed => exact absurd rfl hr
  | _ => exact PlainKept.refl s

theorem FaultedAt.mem {t : State} {r : RegId} {v : Word} {depth : Nat} (h : FaultedAt s t r v depth) :
    t.env.mem = s.env.mem := by
  obtain ⟨todo, rfl⟩ := h
  rfl

theorem State.writeAll_mem (s : State) (l : List (RegId × Word)) : (s.writeAll l).env.mem = s.env.mem := by
  rw [State.writeAll_env]

theorem State.resumed_mem (s : State) (snap : Option EngineRegs) (t : TimingImage) :
    (s.resumed snap t).env.mem = s.env.mem := by
  have hregs : (((s.writeAll (restoreWrites snap)).rederived t)).env.mem = s.env.mem := by
    rw [State.rederived_eq, State.writeAll_mem, State.writeAll_mem]
  exact hregs

/-- Only WCFG's zero-fill writes memory (rule R70). -/
theorem Leaves.mem {i : Instr} {t : State} (h : Leaves s i t) (hw : ∀ win fmt se db bl pd, i ≠ .wcfg win fmt se db bl pd) :
    t.env.mem = s.env.mem := by
  cases h with
  | faulted _ h => exact h.mem
  | faultedFilled => exact absurd rfl (hw _ _ _ _ _ _)
  | timed => exact s.writeAll_mem _
  | turnedOn => exact s.writeAll_mem _
  | turnedOff => exact s.writeAll_mem _
  | configured => exact absurd rfl (hw _ _ _ _ _ _)
  | @panned _ k p _ u hu =>
    have hregs : u.env.mem = s.env.mem := by rw [hu, State.writeAll_mem]
    exact hregs
  | @enabled _ k u hu =>
    have hregs : u.env.mem = s.env.mem := by rw [hu, State.writeAll_mem]
    exact hregs
  | @disabled _ k u hu =>
    have hregs : u.env.mem = s.env.mem := by rw [hu, State.writeAll_mem]
    exact hregs
  | flushed hb k =>
    show (s.flushed k).env.mem = _
    unfold State.flushed
    split <;> rfl
  | resumed hp t => exact s.powered.resumed_mem _ t
  | notTimed => exact s.powered.writeAll_mem _
  | _ => rfl

/-- Settles O60. -/
theorem commandFrame : Obligations.CommandFrame := by
  intro s t i h he
  have hl := exec_leaves h he
  have houtside := hl.outside
  simp only [State.outside, Prod.mk.injEq] at houtside
  obtain ⟨hcmd, hargs, hlatch, hoverrun, hcfg, hvscount, hframe⟩ := houtside
  exact ⟨hcmd, hargs, hlatch, hoverrun, hcfg, hvscount, hframe, fun hs hr => hl.plainKept hs hr,
    fun hw a => by rw [hl.mem hw]⟩

end Sys2Proof.Machine
end

-- ==== Legal blocks, window by window ====
section
/-! PROOFS. `State.Legal` taken apart (rules R46, R56, R180): what the registers hold for one window, what the block knows
of one window, and what a list of `RegWrite`s keeps of both. -/

namespace Sys2Proof.Machine

variable {s t : State} {e e' : EngineRegs} {i k : Win} {d : Window}

theorem PerWindow.set_self {α : Type} (v : PerWindow α) (k : Win) (x : α) : (v.set k x)[k] = x :=
  Vector.getElem_set_self k.isLt

theorem PerWindow.set_ne {α : Type} (v : PerWindow α) {j k : Win} (h : j ≠ k) (x : α) : (v.set k x)[j] = v[j] :=
  Vector.getElem_set_ne k.isLt j.isLt fun hv => h (Fin.ext hv.symm)

/-! ### The parts -/

/-- What the programmed registers hold for one window (rules R46, R56 (c), (d), (e)). -/
structure ProgrammedAt (e : EngineRegs) (i : Win) (d : Window) : Prop where
  enable : d.enabled = e.winEn i
  latched : d.buffer.isSome → e.latchOn i = true
  strides : d.buffer.isSome → bits e.win[i].size 15 0 = d.lineStride ∧ bits e.win[i].size 31 16 = d.panOffset
  start : ∀ b : Buffer, d.buffer = some b → (e.selStart i).toNat = b.base.toNat + d.yOffset * d.lineStride

theorem programmed_iff {w : PerWindow Window} :
    Programmed e w ↔ e.palctl = 0 ∧ ∀ i : Win, ProgrammedAt e i w[i] :=
  ⟨fun h => ⟨h.noFlush, fun i => ⟨h.enables i, h.latched i, h.strides i, h.starts i⟩⟩,
    fun ⟨hp, h⟩ => ⟨hp, fun i => (h i).enable, fun i => (h i).latched, fun i => (h i).strides, fun i => (h i).start⟩⟩

/-- What the block knows of one window beside the registers (rules R152, R154, R165, R180). -/
structure LegalAt (i : Win) (d : Window) (table : Option PendTable) (dirty : Bool) : Prop where
  buffer : ∀ b : Buffer, d.buffer = some b → BufferFits i d b
  base : i.val = 0 → d.blend = none
  hasTable : table.isSome = decide (d.format = some .indexed8)
  dirtyMark : dirty = true ↔ ∃ p : PendTable, table = some p ∧ ∃ k : Fin Config.paletteSize, p[k] ≠ none

theorem State.Legal.at (h : s.Legal) (i : Win) : LegalAt i s.windows[i] s.pend.table[i] s.pend.dirty[i] where
  buffer := h.buffers i
  base hi := by
    obtain rfl : i = 0 := Fin.ext hi
    exact h.opaqueBase
  hasTable := h.tables i
  dirtyMark := h.dirtyMarks i

/-- No BUFSEL on windows 2 and above (rule R31, log entry 21). -/
def EngineRegs.OneSurface (e : EngineRegs) : Prop := ∀ i : Win, 2 ≤ i.val → bit e.win[i].ctl 1 = false

/-- The power states between commands (rules R56, R230, R231). -/
inductive PowerLegal (s : State) : Prop
  | active (hp : s.power.pstate = .active) (hb : s.power.busclkOn = true) (hx : s.power.pixclkOn = true)
      (hc : s.coherent) (hprog : Programmed s.shadow s.windows)
  | suspended (hp : s.power.pstate = .suspended) (hb : s.power.busclkOn = false) (hx : s.power.pixclkOn = false)
      (hsnap : ∃ snap, s.power.snapshot = some snap ∧ Programmed snap s.windows)

theorem State.Legal.powerLegal (h : s.Legal) : PowerLegal s := by
  rcases h.settled with hp | hp
  · obtain ⟨hb, hx, hc, hprog⟩ := h.active hp
    exact .active hp hb hx hc hprog
  · obtain ⟨hb, hx, hsnap⟩ := h.suspended hp
    exact .suspended hp hb hx hsnap

theorem State.Legal.of_parts (hm : s.vsync.maskdepth = 0) (hp : PowerLegal s) (hs : s.shadow.OneSurface)
    (hw : ∀ i : Win, LegalAt i s.windows[i] s.pend.table[i] s.pend.dirty[i]) : s.Legal where
  unmasked := hm
  active hact := by
    cases hp with
    | active _ hb hx hc hprog => exact ⟨hb, hx, hc, hprog⟩
    | suspended hsus => rw [hact] at hsus; cases hsus
  suspended hsus := by
    cases hp with
    | active hact => rw [hact] at hsus; cases hsus
    | suspended _ hb hx hsnap => exact ⟨hb, hx, hsnap⟩
  settled := by
    cases hp with
    | active hact => exact .inl hact
    | suspended hsus => exact .inr hsus
  buffers i := (hw i).buffer
  opaqueBase := (hw 0).base rfl
  oneSurface := hs
  tables i := (hw i).hasTable
  dirtyMarks i := (hw i).dirtyMark

/-- A legal block with the bus clock on is Active. -/
theorem State.Legal.clocked (h : s.Legal) (hb : s.clocked) :
    s.power.pstate = .active ∧ s.power.pixclkOn = true ∧ s.coherent ∧ Programmed s.shadow s.windows := by
  cases h.powerLegal with
  | active hp _ hx hc hprog => exact ⟨hp, hx, hc, hprog⟩
  | suspended _ hoff =>
    have hon : s.power.busclkOn = true := hb
    rw [hoff] at hon
    cases hon

/-- Whatever leaves the registers, the power state and the mask alone keeps a block legal if each window stays so. -/
theorem State.Legal.of_samePower (h : s.Legal) (hm : t.vsync.maskdepth = s.vsync.maskdepth) (hp : t.power = s.power)
    (hs : t.shadow = s.shadow) (he : t.engine.regs = s.engine.regs) (hw : t.windows = s.windows)
    (hat : ∀ i : Win, LegalAt i t.windows[i] t.pend.table[i] t.pend.dirty[i]) : t.Legal := by
  refine .of_parts (hm.trans h.unmasked) ?_ (by rw [hs]; exact h.oneSurface) hat
  cases h.powerLegal with
  | active hact hb hx hc hprog =>
    refine .active (by rw [hp]; exact hact) (by rw [hp]; exact hb) (by rw [hp]; exact hx) ?_ (by rw [hs, hw]; exact hprog)
    unfold State.coherent
    rw [hs, he]
    exact hc
  | suspended hsus hb hx hsnap =>
    exact .suspended (by rw [hp]; exact hsus) (by rw [hp]; exact hb) (by rw [hp]; exact hx) (by rw [hp, hw]; exact hsnap)

/-! ### What a list of `RegWrite`s leaves -/

/-- The block after the writes `l` and whatever else a command does outside the registers, the clocks and the mask. -/
structure Wrote (s : State) (l : List (RegId × Word)) (t : State) : Prop where
  maskdepth : t.vsync.maskdepth = s.vsync.maskdepth
  power : t.power = s.power
  shadow : ∀ r, t.shadow.get r = (lastWrite l r).getD (s.shadow.get r)
  regs : ∀ r, t.engine.regs.get r = (lastWrite l r).getD (s.engine.regs.get r)

theorem Wrote.writeAll (s : State) (l : List (RegId × Word)) : Wrote s l (s.writeAll l) where
  maskdepth := by rw [State.writeAll_vsync]
  power := State.writeAll_power l
  shadow r := (State.writeAll_get l r).1
  regs r := (State.writeAll_get l r).2

variable {l : List (RegId × Word)}

theorem Wrote.shadow_untouched (h : Wrote s l t) {r : RegId} (hr : ∀ w ∈ l, w.1 ≠ r) : t.shadow.get r = s.shadow.get r := by
  rw [h.shadow, lastWrite_eq_none hr]
  rfl

theorem Wrote.shadow_written (h : Wrote s l t) {r : RegId} {v : Word} (hr : lastWrite l r = some v) :
    t.shadow.get r = v := by
  rw [h.shadow, hr]
  rfl

/-- Both copies take the same values. -/
theorem Wrote.coherent (h : Wrote s l t) (hc : s.coherent) : t.coherent := fun r hr => by
  rw [h.shadow, h.regs, hc r hr]

/-- The registers that one window's facts are read from agree. -/
structure AgreeOn (i : Win) (e e' : EngineRegs) : Prop where
  enable : e'.winEn i = e.winEn i
  latch : e'.latchOn i = e.latchOn i
  size : e'.win[i].size = e.win[i].size
  start : e'.selStart i = e.selStart i

theorem ProgrammedAt.of_agree (h : ProgrammedAt e i d) (ha : AgreeOn i e e') : ProgrammedAt e' i d where
  enable := by rw [ha.enable]; exact h.enable
  latched hb := by rw [ha.latch]; exact h.latched hb
  strides hb := by rw [ha.size]; exact h.strides hb
  start b hb := by rw [ha.start]; exact h.start b hb

theorem EngineRegs.selStart_congr (hsel : e'.bufsel i = e.bufsel i) (h0 : e'.win[i].start0 = e.win[i].start0)
    (h1 : i.val ≤ 1 → e'.win[i].start1 = e.win[i].start1) : e'.selStart i = e.selStart i := by
  unfold EngineRegs.selStart
  rw [hsel]
  split
  · rename_i hb
    have hi : i.val ≤ 1 := by
      unfold EngineRegs.bufsel at hb
      simp only [Bool.and_eq_true, decide_eq_true_eq] at hb
      exact hb.1
    exact h1 hi
  · exact h0

theorem AgreeOn.of_sameWindow (h : ∀ f, e'.get (.win i f) = e.get (.win i f)) (hl : e'.latchOn i = e.latchOn i) :
    AgreeOn i e e' where
  enable := congrArg (bit · 0) (h .ctl)
  latch := hl
  size := h .size
  start := EngineRegs.selStart_congr (congrArg (fun c => decide (i.val ≤ 1) && bit c 1) (h .ctl)) (h .start0)
    (fun _ => h .start1)

/-- Writes of none of a window's registers. -/
theorem Wrote.agreeOn (h : Wrote s l t) (hw : ∀ w ∈ l, ∀ f, w.1 ≠ .win i f) (hl : t.shadow.latchOn i = s.shadow.latchOn i) :
    AgreeOn i s.shadow t.shadow :=
  .of_sameWindow (fun f => h.shadow_untouched fun w hm => hw w hm f) hl

/-- Writes of registers that no window's facts are read from, PALUPD left at 0. -/
theorem State.Legal.of_global (h : s.Legal) (hb : s.clocked) (hwrote : Wrote s l t)
    (hl : ∀ w ∈ l, w.1 ≠ .alatch ∧ ∀ j f, w.1 ≠ .win j f) (hpal : t.shadow.palctl = 0) (hw : t.windows = s.windows)
    (hat : ∀ i : Win, LegalAt i t.windows[i] t.pend.table[i] t.pend.dirty[i]) : t.Legal := by
  obtain ⟨hact, hx, hc, hprog⟩ := h.clocked hb
  obtain ⟨-, holds⟩ := programmed_iff.mp hprog
  have hlatch : t.shadow.alatch = s.shadow.alatch := hwrote.shadow_untouched (r := .alatch) fun w hm => (hl w hm).1
  have hagree : ∀ j, AgreeOn j s.shadow t.shadow := fun j =>
    hwrote.agreeOn (fun w hm => (hl w hm).2 j) (congrArg (bit · j.val) hlatch)
  have hctl : ∀ j : Win, t.shadow.win[j].ctl = s.shadow.win[j].ctl := fun j =>
    hwrote.shadow_untouched (r := .win j .ctl) fun w hm => (hl w hm).2 j .ctl
  refine .of_parts (hwrote.maskdepth.trans h.unmasked) ?_ (fun j hj => by rw [hctl j]; exact h.oneSurface j hj) hat
  refine .active (by rw [hwrote.power]; exact hact) (by rw [hwrote.power]; exact hb) (by rw [hwrote.power]; exact hx)
    (hwrote.coherent hc) (programmed_iff.mpr ⟨hpal, fun j => ?_⟩)
  rw [hw]
  exact (holds j).of_agree (hagree j)

/-! ### A command on one window -/

theorem bit_oneHot (j k : Win) : bit (oneHot k.val) j.val = decide (j = k) := by
  revert j k
  decide

/-- A latch bit set for one window leaves the others'. -/
theorem bit_or_oneHot_ne (w : Word) {j k : Win} (h : j ≠ k) : bit (w ||| oneHot k.val) j.val = bit w j.val := by
  rw [bit_or, bit_oneHot, decide_eq_false h, Bool.or_false]

/-- The writes of a command on window `k`: its registers, and ALATCH left as it was or with its bit set. -/
structure WritesWindow (k : Win) (latch : Word) (l : List (RegId × Word)) : Prop where
  only : ∀ w ∈ l, w.1 = .alatch ∨ ∃ f, w.1 = .win k f
  latch : lastWrite l .alatch = none ∨ lastWrite l .alatch = some (latch ||| oneHot k.val)

/-- A command that writes one window's registers and record keeps the block legal if it keeps that window so. -/
theorem State.Legal.of_window (h : s.Legal) (hb : s.clocked) (hwrote : Wrote s l t)
    (hl : WritesWindow k s.shadow.alatch l) (hw : t.windows = s.windows.set k d)
    (htables : ∀ j, j ≠ k → t.pend.table[j] = s.pend.table[j] ∧ t.pend.dirty[j] = s.pend.dirty[j])
    (hprog : ProgrammedAt t.shadow k d) (hsurface : 2 ≤ k.val → bit t.shadow.win[k].ctl 1 = false)
    (hat : LegalAt k d t.pend.table[k] t.pend.dirty[k]) : t.Legal := by
  obtain ⟨hact, hx, hc, hold⟩ := h.clocked hb
  obtain ⟨hpal, holds⟩ := programmed_iff.mp hold
  have hself : t.windows[k] = d := by rw [hw]; exact PerWindow.set_self _ k d
  have hrest : ∀ j : Win, j ≠ k → t.windows[j] = s.windows[j] := fun j hj => by
    rw [hw]
    exact PerWindow.set_ne _ hj d
  have huntouched : ∀ j, j ≠ k → ∀ w ∈ l, ∀ f, w.1 ≠ .win j f := fun j hj w hm f hf => by
    rcases hl.only w hm with ha | ⟨g, hg⟩
    · rw [hf] at ha; cases ha
    · rw [hf] at hg; cases hg; exact hj rfl
  have hpal' : t.shadow.palctl = s.shadow.palctl := hwrote.shadow_untouched (r := .palctl) fun w hm hp => by
    rcases hl.only w hm with ha | ⟨g, hg⟩
    · rw [hp] at ha; cases ha
    · rw [hp] at hg; cases hg
  have hlatch : ∀ j, j ≠ k → t.shadow.latchOn j = s.shadow.latchOn j := fun j hj => by
    have hget : t.shadow.alatch = _ := hwrote.shadow .alatch
    unfold EngineRegs.latchOn
    rw [hget]
    rcases hl.latch with hn | hs
    · rw [hn]; rfl
    · rw [hs]; exact bit_or_oneHot_ne _ hj
  refine .of_parts (hwrote.maskdepth.trans h.unmasked) ?_ (fun j hj => ?_) (fun j => ?_)
  · refine .active (by rw [hwrote.power]; exact hact) (by rw [hwrote.power]; exact hb) (by rw [hwrote.power]; exact hx)
      (hwrote.coherent hc) (programmed_iff.mpr ⟨hpal'.trans hpal, fun j => ?_⟩)
    by_cases hj : j = k
    · subst hj; rw [hself]; exact hprog
    · rw [hrest j hj]; exact (holds j).of_agree (hwrote.agreeOn (huntouched j hj) (hlatch j hj))
  · by_cases hjk : j = k
    · subst hjk; exact hsurface hj
    · have hctl : t.shadow.win[j].ctl = s.shadow.win[j].ctl :=
        hwrote.shadow_untouched (r := .win j .ctl) fun w hm => huntouched j hjk w hm .ctl
      rw [hctl]
      exact h.oneSurface j hj
  · by_cases hj : j = k
    · subst hj; rw [hself]; exact hat
    · obtain ⟨htable, hdirty⟩ := htables j hj
      rw [hrest j hj, htable, hdirty]
      exact h.at j

/-! ### WINCTL's bits (rules R31, R38) -/

theorem bit_wired_enable (k : Win) (v : Word) : bit (RegId.wired (.win k .ctl) v) 0 = bit v 0 := by
  rw [RegId.wired_ctl]
  split
  · simp [bit]
  · rfl

theorem bit_wired_surface (k : Win) (v : Word) (h : 2 ≤ k.val) : bit (RegId.wired (.win k .ctl) v) 1 = false := by
  rw [RegId.wired_ctl, if_pos h]
  simp [bit]

/-- BUFSEL after a value is written whose bit 1 is that of the old one. -/
theorem EngineRegs.bufsel_wired {v : Word} (hc : e'.win[k].ctl = RegId.wired (.win k .ctl) v)
    (hv : bit v 1 = bit e.win[k].ctl 1) : e'.bufsel k = e.bufsel k := by
  unfold EngineRegs.bufsel
  by_cases hk : k.val ≤ 1
  · rw [hc, RegId.wired_win_low hk, hv]
  · rw [decide_eq_false hk, Bool.false_and, Bool.false_and]

end Sys2Proof.Machine
end

-- ==== Every command keeps the block legal ====
section
/-! PROOFS. Each block that an undisturbed command leaves without a fault is legal when it started from a legal one (rule
R56), effect by effect. -/

namespace Sys2Proof.Machine

variable {s t : State} {k : Win} {d : Window}

/-! ### The pending tables (rules R180 to R188) -/

theorem PendTable.clear_get (j : Fin Config.paletteSize) : PendTable.clear[j] = none := by
  unfold PendTable.clear
  exact Vector.getElem_replicate _

/-- The facts of one window are those of its own entries. -/
theorem LegalAt.of_entries {table table' : Option PendTable} {dirty dirty' : Bool} (h : LegalAt k d table dirty)
    (ht : table'.isSome = table.isSome)
    (hd : dirty' = true ↔ ∃ p : PendTable, table' = some p ∧ ∃ j : Fin Config.paletteSize, p[j] ≠ none) :
    LegalAt k d table' dirty' :=
  ⟨h.buffer, h.base, ht.trans h.hasTable, hd⟩

theorem State.Legal.at_stored (h : s.Legal) (hf : s.windows[k].format = some .indexed8) (idx : Fin Config.paletteSize)
    (v : Word) (j : Win) :
    LegalAt j s.windows[j] (s.pend.store k idx v).table[j] (s.pend.store k idx v).dirty[j] := by
  by_cases hj : j = k
  · subst hj
    have hsome := h.tables j
    rw [hf, decide_eq_true rfl] at hsome
    obtain ⟨p, hp⟩ := Option.isSome_iff_exists.mp hsome
    have htable : (s.pend.store j idx v).table[j] = some (p.set idx (some v)) := by
      refine (PerWindow.set_self _ j _).trans ?_
      rw [hp]
      rfl
    have hdirty : (s.pend.store j idx v).dirty[j] = true := PerWindow.set_self _ j _
    rw [htable, hdirty]
    refine (h.at j).of_entries (by rw [hp]; rfl) ⟨fun _ => ⟨_, rfl, idx, ?_⟩, fun _ => rfl⟩
    simp
  · have htable : (s.pend.store k idx v).table[j] = s.pend.table[j] := PerWindow.set_ne _ hj _
    have hdirty : (s.pend.store k idx v).dirty[j] = s.pend.dirty[j] := PerWindow.set_ne _ hj _
    rw [htable, hdirty]
    exact h.at j

theorem State.Legal.at_cleared (h : s.Legal) (k j : Win) :
    LegalAt j s.windows[j] (s.pend.cleared k).table[j] (s.pend.cleared k).dirty[j] := by
  by_cases hj : j = k
  · subst hj
    have htable : (s.pend.cleared j).table[j] = s.pend.table[j].map fun _ => PendTable.clear :=
      PerWindow.set_self _ j _
    have hdirty : (s.pend.cleared j).dirty[j] = false := PerWindow.set_self _ j _
    rw [htable, hdirty]
    refine (h.at j).of_entries (by simp) ⟨fun hf => (by cases hf), ?_⟩
    rintro ⟨p, hp, i, hi⟩
    obtain ⟨-, -, rfl⟩ := Option.map_eq_some_iff.mp hp
    exact absurd (PendTable.clear_get i) hi
  · have htable : (s.pend.cleared k).table[j] = s.pend.table[j] := PerWindow.set_ne _ hj _
    have hdirty : (s.pend.cleared k).dirty[j] = s.pend.dirty[j] := PerWindow.set_ne _ hj _
    rw [htable, hdirty]
    exact h.at j

/-- WCFG leaves the other windows' tables alone. -/
theorem PalettePending.reformat_ne (p : PalettePending) (f : Format) {j : Win} (hj : j ≠ k) :
    (p.reformat k f).table[j] = p.table[j] ∧ (p.reformat k f).dirty[j] = p.dirty[j] := by
  cases f with
  | indexed8 => exact ⟨PerWindow.set_ne _ hj _, rfl⟩
  | rgb565 => exact ⟨PerWindow.set_ne _ hj _, PerWindow.set_ne _ hj _⟩
  | rgb888 => exact ⟨PerWindow.set_ne _ hj _, PerWindow.set_ne _ hj _⟩

/-- The table that WCFG leaves is there exactly when the new format is Indexed8, with its marks (rule R181). -/
theorem State.Legal.reformat_table (h : s.Legal) (k : Win) (f : Format) :
    (s.pend.reformat k f).table[k].isSome = decide (f = .indexed8)
      ∧ ((s.pend.reformat k f).dirty[k] = true
        ↔ ∃ p : PendTable, (s.pend.reformat k f).table[k] = some p ∧ ∃ j : Fin Config.paletteSize, p[j] ≠ none) := by
  have hmarks := h.dirtyMarks k
  have hdropped : (s.pend.table.set k none)[k] = none ∧ (s.pend.dirty.set k false)[k] = false :=
    ⟨PerWindow.set_self _ k _, PerWindow.set_self _ k _⟩
  cases f with
  | indexed8 =>
    have htable : (s.pend.reformat k .indexed8).table[k] = some (s.pend.table[k].getD PendTable.clear) :=
      PerWindow.set_self _ k _
    have hdirty : (s.pend.reformat k .indexed8).dirty[k] = s.pend.dirty[k] := rfl
    rw [htable, hdirty, hmarks]
    refine ⟨rfl, ?_⟩
    cases hp : s.pend.table[k] with
    | some p => simp
    | none =>
      constructor
      · rintro ⟨p, hnone, -⟩; cases hnone
      · rintro ⟨p, hclear, j, hj⟩
        cases hclear
        exact absurd (PendTable.clear_get j) hj
  | rgb565 =>
    have htable : (s.pend.reformat k .rgb565).table[k] = none := hdropped.1
    have hdirty : (s.pend.reformat k .rgb565).dirty[k] = false := hdropped.2
    rw [htable, hdirty]
    simp
  | rgb888 =>
    have htable : (s.pend.reformat k .rgb888).table[k] = none := hdropped.1
    have hdirty : (s.pend.reformat k .rgb888).dirty[k] = false := hdropped.2
    rw [htable, hdirty]
    simp

/-! ### Commands that write no window register -/

/-- TIMING, OUTON and OUTOFF write neither a palette, a latch nor a window register. -/
theorem State.Legal.of_output (h : s.Legal) (hb : s.clocked) {l : List (RegId × Word)} (hwrote : Wrote s l t)
    (hl : ∀ w ∈ l, w.1 ≠ .palctl ∧ w.1 ≠ .alatch ∧ ∀ j f, w.1 ≠ .win j f) (hw : t.windows = s.windows)
    (hp : t.pend = s.pend) : t.Legal := by
  obtain ⟨-, -, -, hprog⟩ := h.clocked hb
  have hpal : t.shadow.palctl = s.shadow.palctl := hwrote.shadow_untouched (r := .palctl) fun w hm => (hl w hm).1
  exact h.of_global hb hwrote (fun w hm => (hl w hm).2) (hpal.trans hprog.noFlush) hw (by rw [hw, hp]; exact h.at)

/-- A flush leaves PALUPD at 0 and the table clear (rule R187). -/
theorem State.Legal.flushed (h : s.Legal) (hb : s.clocked) (k : Win) : (s.flushed k).Legal := by
  obtain ⟨-, -, -, hprog⟩ := h.clocked hb
  have hpal : s.shadow.palctl &&& ~~~(oneHot k.val) = 0 := by rw [hprog.noFlush]; exact BitVec.zero_and
  have hwrote : ∀ u : State, u.vsync = s.vsync → u.power = s.power
      → u.shadow = s.shadow.put .palctl (s.shadow.palctl &&& ~~~(oneHot k.val))
      → u.engine.regs = s.engine.regs.put .palctl (s.shadow.palctl &&& ~~~(oneHot k.val))
      → Wrote s [(.palctl, s.shadow.palctl &&& ~~~(oneHot k.val))] u := fun u hv hp hs he => by
    refine ⟨by rw [hv], hp, fun r => ?_, fun r => ?_⟩
    · rw [hs, EngineRegs.get_put]
      unfold lastWrite
      simp only [List.foldl_cons, List.foldl_nil]
      split <;> rfl
    · rw [he, EngineRegs.get_put]
      unfold lastWrite
      simp only [List.foldl_cons, List.foldl_nil]
      split <;> rfl
  have hat := h.at_cleared k
  unfold State.flushed
  split
  · exact h.of_global hb (hwrote _ rfl rfl rfl rfl) (by simp) hpal rfl hat
  · exact h.of_global hb (hwrote _ rfl rfl rfl rfl) (by simp) hpal rfl hat
  · exact h

/-! ### WEN and WDIS (rules R172, R173) -/

/-- A write of WINCTL[k] that moves WIN_EN alone, and the record of it. -/
theorem State.Legal.of_enable (h : s.Legal) (hb : s.clocked) (on : Bool) {v : Word}
    (hwrote : Wrote s [(.win k .ctl, RegId.wired (.win k .ctl) v)] t) (hen : bit v 0 = on)
    (hsel : bit v 1 = bit s.shadow.win[k].ctl 1)
    (hw : t.windows = s.windows.set k { s.windows[k] with enabled := on }) (hp : t.pend = s.pend) : t.Legal := by
  obtain ⟨-, -, -, hprog⟩ := h.clocked hb
  have hat := (programmed_iff.mp hprog).2 k
  have hctl : t.shadow.win[k].ctl = RegId.wired (.win k .ctl) v :=
    hwrote.shadow_written (r := .win k .ctl) (by simp [lastWrite])
  have hother : ∀ f, f ≠ .ctl → t.shadow.get (.win k f) = s.shadow.get (.win k f) := fun f hf =>
    hwrote.shadow_untouched (by simpa using hf.symm)
  have hlatch : t.shadow.alatch = s.shadow.alatch := hwrote.shadow_untouched (r := .alatch) (by simp)
  have hsize : t.shadow.win[k].size = s.shadow.win[k].size := hother .size (by simp)
  have hstart : t.shadow.selStart k = s.shadow.selStart k :=
    EngineRegs.selStart_congr (EngineRegs.bufsel_wired hctl hsel) (hother .start0 (by simp))
      (fun _ => hother .start1 (by simp))
  refine h.of_window hb hwrote ⟨by simp, .inl (by simp [lastWrite])⟩ hw (fun j _ => by rw [hp]; exact ⟨rfl, rfl⟩)
    ⟨?_, fun hbuf => ?_, fun hbuf => ?_, fun b hbuf => ?_⟩ (fun hk => by rw [hctl]; exact bit_wired_surface k v hk) ?_
  · show on = bit t.shadow.win[k].ctl 0
    rw [hctl, bit_wired_enable, hen]
  · show bit t.shadow.alatch k.val = true
    rw [hlatch]
    exact hat.latched hbuf
  · rw [hsize]
    exact hat.strides hbuf
  · rw [hstart]
    exact hat.start b hbuf
  · rw [hp]
    obtain ⟨hbuffer, hbase, htable, hdirty⟩ := h.at k
    exact ⟨fun b hbuf => ⟨(hbuffer b hbuf).stride, (hbuffer b hbuf).shown, (hbuffer b hbuf).below,
      (hbuffer b hbuf).inside, (hbuffer b hbuf).halves⟩, hbase, htable, hdirty⟩

end Sys2Proof.Machine
end

-- ==== Whole commands keep the block legal ====
section
/-! PROOFS. WPAN, WCFG, SUSP and RESM keep a legal block legal (rules R152 to R166, R232 to R244); with the commands before
them, every command that does not fault does (rule R56). -/

namespace Sys2Proof.Machine

variable {s t : State} {k : Win} {d : Window}

/-! ### WPAN (rules R165, R166) -/

/-- What a pan that is accepted has computed. -/
theorem Window.panPlan_inv {y : Nat} {p : PanPlan} (h : d.panPlan y = some p) : ∃ b, d.buffer = some b
    ∧ y * d.lineStride + d.visible ≤ b.length ∧ p.start = b.base.toNat + y * d.lineStride
    ∧ (p.half = true → b.double = true) := by
  unfold Window.panPlan at h
  cases hb : d.buffer with
  | none => rw [hb] at h; cases h
  | some b =>
    rw [hb] at h
    simp only at h
    split at h
    · rename_i hfit
      cases h
      exact ⟨b, rfl, hfit, rfl, fun hh => by simp_all⟩
    · cases h

/-- WPAN's new value of WINCTL moves BUFSEL alone. -/
theorem bits_bufselValue (c : Word) (half : Bool) : bit ((c &&& ~~~0x00000002#32) ||| (flagWord half <<< 1)) 0 = bit c 0
    ∧ bit ((c &&& ~~~0x00000002#32) ||| (flagWord half <<< 1)) 1 = half := by
  cases half <;> simp [bit, flagWord]

theorem wpanList_writesWindow (sh : EngineRegs) (k : Win) (p : PanPlan) : WritesWindow k sh.alatch (wpanList sh k p) := by
  unfold wpanList
  split
  · exact ⟨by simp, .inr (by simp [lastWrite])⟩
  · exact ⟨by simp, .inr (by simp [lastWrite])⟩

theorem lastWrite_wpan_start (sh : EngineRegs) (k : Win) (p : PanPlan) :
    lastWrite (wpanList sh k p) (.win k (startReg p.half)) = some (addressWord p.start) := by
  unfold wpanList
  cases p.half <;> split <;> simp [lastWrite, startReg, endReg]

theorem lastWrite_wpan_ctl (sh : EngineRegs) (k : Win) (p : PanPlan) : lastWrite (wpanList sh k p) (.win k .ctl)
    = if sh.bufsel k = p.half then none
      else some (RegId.wired (.win k .ctl) ((sh.win[k].ctl &&& ~~~0x00000002#32) ||| (flagWord p.half <<< 1))) := by
  unfold wpanList
  cases hh : p.half <;> split <;> simp_all [lastWrite, startReg, endReg]

theorem lastWrite_wpan_size (sh : EngineRegs) (k : Win) (p : PanPlan) : lastWrite (wpanList sh k p) (.win k .size) = none := by
  unfold wpanList
  cases p.half <;> split <;> simp [lastWrite, startReg, endReg]

/-- After WPAN's writes BUFSEL names the half, and WIN_EN is as before. -/
theorem Wrote.wpan_ctl {p : PanPlan} (hw : Wrote s (wpanList s.shadow k p) t) (hhalf : p.half = true → k.val ≤ 1) :
    t.shadow.winEn k = s.shadow.winEn k ∧ t.shadow.bufsel k = p.half := by
  have hget : t.shadow.win[k].ctl = _ := hw.shadow (.win k .ctl)
  rw [lastWrite_wpan_ctl] at hget
  unfold EngineRegs.winEn
  by_cases hsame : s.shadow.bufsel k = p.half
  · rw [if_pos hsame] at hget
    have hctl : t.shadow.win[k].ctl = s.shadow.win[k].ctl := hget
    refine ⟨by rw [hctl], ?_⟩
    rw [← hsame]
    unfold EngineRegs.bufsel
    rw [hctl]
  · rw [if_neg hsame, Option.getD_some] at hget
    obtain ⟨hzero, hone⟩ := bits_bufselValue s.shadow.win[k].ctl p.half
    have hk : k.val ≤ 1 := by
      by_contra hk
      have hold : s.shadow.bufsel k = false := by
        unfold EngineRegs.bufsel
        rw [decide_eq_false hk, Bool.false_and]
      rw [hold] at hsame
      exact hk (hhalf (by simpa using Ne.symm hsame))
    refine ⟨by rw [hget, bit_wired_enable, hzero], ?_⟩
    unfold EngineRegs.bufsel
    rw [hget, RegId.wired_win_low hk, hone, decide_eq_true hk, Bool.true_and]

theorem EngineRegs.selStart_eq {e : EngineRegs} {half : Bool} (h : e.bufsel k = half) :
    e.selStart k = e.get (.win k (startReg half)) := by
  unfold EngineRegs.selStart
  rw [h]
  cases half <;> rfl

theorem State.Legal.wpan (h : s.Legal) (hb : s.clocked) {y : Nat} {p : PanPlan} (hp : s.windows[k].panPlan y = some p)
    (hwrote : Wrote s (wpanList s.shadow k p) t) (hw : t.windows = s.windows.set k (s.windows[k].panned y p.half))
    (hpend : t.pend = s.pend) : t.Legal := by
  obtain ⟨-, -, -, hprog⟩ := h.clocked hb
  have hat := (programmed_iff.mp hprog).2 k
  obtain ⟨b, hbuf, hfit, hstart, hdouble⟩ := Window.panPlan_inv hp
  have hfits := h.buffers k b hbuf
  obtain ⟨hen, hsel⟩ := hwrote.wpan_ctl fun hh => hfits.halves (hdouble hh)
  have hlatch := wpanList_writesWindow s.shadow k p
  have hsize : t.shadow.win[k].size = s.shadow.win[k].size := by
    have hget : t.shadow.win[k].size = _ := hwrote.shadow (.win k .size)
    rw [lastWrite_wpan_size] at hget
    exact hget
  have hvisible : 1 ≤ s.windows[k].visible := Nat.mul_pos hfits.shown hfits.stride.1
  have hbelow : p.start < 4294967296 := by
    have := hfits.below
    unfold Config.memorySize at this
    omega
  have hpanned : (s.windows[k].panned y p.half).buffer = some { b with committed := p.half } := by
    unfold Window.panned
    rw [hbuf]
    rfl
  refine h.of_window hb hwrote hlatch hw (fun j _ => by rw [hpend]; exact ⟨rfl, rfl⟩)
    ⟨by rw [hen]; exact hat.enable, fun _ => ?_, fun _ => ?_, fun b' hb' => ?_⟩ (fun hk => ?_) ?_
  · have hget : t.shadow.alatch = _ := hwrote.shadow .alatch
    unfold EngineRegs.latchOn
    rw [hget]
    rcases hlatch.latch with hn | hs
    · rw [hn]; exact hat.latched (by rw [hbuf]; rfl)
    · rw [hs]; exact bit_or_oneHot _ k
  · rw [hsize]
    exact hat.strides (by rw [hbuf]; rfl)
  · rw [hpanned] at hb'
    cases hb'
    rw [EngineRegs.selStart_eq hsel, hwrote.shadow_written (lastWrite_wpan_start s.shadow k p)]
    exact (word_toNat hbelow).trans hstart
  · have hget : t.shadow.win[k].ctl = _ := hwrote.shadow (.win k .ctl)
    rw [hget, lastWrite_wpan_ctl]
    split
    · exact h.oneSurface k hk
    · exact bit_wired_surface k _ hk
  · rw [hpend]
    obtain ⟨-, hbase, htable, hdirty⟩ := h.at k
    refine ⟨fun b' hb' => ?_, hbase, htable, hdirty⟩
    rw [hpanned] at hb'
    cases hb'
    exact ⟨hfits.stride, hfits.shown, hfits.below, hfit, hfits.halves⟩

/-! ### WCFG (rules R152 to R159) -/

/-- What WCFG's checks have established (rule R154). -/
structure WcfgAccepted (c : ConfigBank) (k : Win) (db bl : Bool) (a : WcfgArgs) (f : Format) (l : Layout) : Prop where
  base : k.val = 0 → bl = false
  halves : db = true → k.val ≤ 1
  layout : l = layoutOf f a
  width : 1 ≤ a.width ∧ a.width ≤ a.vwidth
  height : 1 ≤ a.height ∧ a.height ≤ a.vheight
  stride : l.lineStride ≤ 65535
  below : c.fbBase[k].toNat + l.length ≤ Config.memorySize

theorem wcfgCheck_ok {c : ConfigBank} {fmt : BitVec 2} {db bl : Bool} {a : WcfgArgs} {f : Format} {l : Layout}
    (h : wcfgCheck c k fmt db bl a = .ok (f, l)) : WcfgAccepted c k db bl a f l := by
  unfold wcfgCheck at h
  split at h
  · cases h
  · rename_i hbase
    split at h
    · cases h
    · rename_i hhalves
      split at h
      · cases h
      · split at h
        · cases h
        · split at h
          · rename_i hgeometry
            cases h
            simp only [geometryFits, Bool.and_eq_true, decide_eq_true_eq] at hgeometry
            obtain ⟨⟨⟨⟨⟨⟨⟨⟨⟨hw, hh⟩, -⟩, -⟩, hvw⟩, hvh⟩, hstride⟩, -⟩, hbelow⟩, -⟩ := hgeometry
            refine ⟨fun hk => ?_, fun hd => ?_, rfl, ⟨hw, hvw⟩, ⟨hh, hvh⟩, hstride, hbelow⟩
            · simpa [hk] using hbase
            · rw [hd] at hhalves
              simp only [Bool.true_and, decide_eq_true_eq] at hhalves
              omega
          · cases h

theorem Format.bpp_pos (f : Format) : 1 ≤ f.bpp := by
  cases f <;> decide

theorem le_roundToPage (n : Nat) : n ≤ roundToPage n := by
  unfold roundToPage Config.page
  omega

theorem WcfgAccepted.stride_pos {c : ConfigBank} {db bl : Bool} {a : WcfgArgs} {f : Format} {l : Layout}
    (h : WcfgAccepted c k db bl a f l) : 1 ≤ l.lineStride := by
  rw [h.layout]
  exact Nat.mul_pos (Nat.le_trans h.width.1 h.width.2) f.bpp_pos

theorem WcfgAccepted.panOffset_le {c : ConfigBank} {db bl : Bool} {a : WcfgArgs} {f : Format} {l : Layout}
    (h : WcfgAccepted c k db bl a f l) : l.panOffset ≤ l.lineStride := by
  rw [h.layout]
  exact Nat.mul_le_mul_right _ (Nat.sub_le _ _)

/-- The visible lines lie inside the buffer. -/
theorem WcfgAccepted.inside {c : ConfigBank} {db bl : Bool} {a : WcfgArgs} {f : Format} {l : Layout}
    (h : WcfgAccepted c k db bl a f l) : a.height * l.lineStride ≤ l.length := by
  rw [h.layout]
  calc a.height * (a.vwidth * f.bpp) ≤ a.vheight * (a.vwidth * f.bpp) := Nat.mul_le_mul_right _ h.height.2
    _ = a.vwidth * a.vheight * f.bpp := by rw [← Nat.mul_assoc, Nat.mul_comm a.vheight]
    _ ≤ roundToPage (a.vwidth * a.vheight * f.bpp) := le_roundToPage _

/-- The two stride fields of WINSIZE. -/
theorem bits_sizeWord {p n : Nat} (hp : p < 65536) (hn : n < 65536) :
    bits ((word p <<< 16) ||| word n) 15 0 = n ∧ bits ((word p <<< 16) ||| word n) 31 16 = p := by
  have hsum := toNat_or_field 16 (word_toNat (n := n) (by omega)) (word_toNat (n := p) (by omega)) hn (by omega)
  rw [BitVec.or_comm, bits_eq, bits_eq, hsum]
  omega

/-- The value that WCFG leaves in WINCTL. -/
theorem Format.bits_mode (f : Format) (se : Bool) : bit (if se then f.mode ||| 0x00000001#32 else f.mode) 0 = se
    ∧ bit (if se then f.mode ||| 0x00000001#32 else f.mode) 1 = false := by
  cases f <;> cases se <;> decide

/-- The writes of WCFG s3 to s10. -/
def wcfgList (latch : Word) (k : Win) (f : Format) (a : WcfgArgs) (l : Layout) (base : Word) (se db bl : Bool) :
    List (RegId × Word) :=
  wcfgAddressList latch k l base db ++ wcfgProgramList k f a l se bl

theorem lastWrite_wcfg (latch : Word) (k : Win) (f : Format) (a : WcfgArgs) (l : Layout) (base : Word) (se db bl : Bool) :
    lastWrite (wcfgList latch k f a l base se db bl) .alatch = some (latch ||| oneHot k.val)
      ∧ lastWrite (wcfgList latch k f a l base se db bl) (.win k .start0) = some base
      ∧ lastWrite (wcfgList latch k f a l base se db bl) (.win k .size)
        = some ((word l.panOffset <<< 16) ||| word l.lineStride)
      ∧ lastWrite (wcfgList latch k f a l base se db bl) (.win k .ctl)
        = some (if se then f.mode ||| 0x00000001#32 else f.mode) := by
  unfold wcfgList wcfgAddressList wcfgProgramList
  by_cases hset : k.val ≤ 1 <;> by_cases hblend : 1 ≤ k.val <;> cases se <;> simp [lastWrite, hset, hblend]

theorem wcfgList_writesWindow (latch : Word) (k : Win) (f : Format) (a : WcfgArgs) (l : Layout) (base : Word)
    (se db bl : Bool) : WritesWindow k latch (wcfgList latch k f a l base se db bl) := by
  refine ⟨?_, .inr (lastWrite_wcfg latch k f a l base se db bl).1⟩
  unfold wcfgList wcfgAddressList wcfgProgramList
  by_cases hset : k.val ≤ 1 <;> by_cases hblend : 1 ≤ k.val <;> cases se <;> simp [hset, hblend]

theorem State.Legal.wcfg (h : s.Legal) (hb : s.clocked) {fmt : BitVec 2} {se db bl pd : Bool} {f : Format} {l : Layout}
    (hcheck : wcfgCheck s.cfg k fmt db bl s.wcfgArgs = .ok (f, l))
    (hwrote : Wrote s (wcfgList s.shadow.alatch k f s.wcfgArgs l s.cfg.fbBase[k] se db bl) t)
    (hw : t.windows = s.windows.set k (windowRecord f s.wcfgArgs l s.cfg.fbBase[k] se db bl pd))
    (hpend : t.pend = s.pend.reformat k f) : t.Legal := by
  have hok := wcfgCheck_ok hcheck
  obtain ⟨hlatch, hstart, hsize, hctl⟩ := lastWrite_wcfg s.shadow.alatch k f s.wcfgArgs l s.cfg.fbBase[k] se db bl
  obtain ⟨hen, hsel⟩ := f.bits_mode se
  have hlatch' : t.shadow.alatch = _ := hwrote.shadow_written hlatch
  have hstart' : t.shadow.win[k].start0 = _ := hwrote.shadow_written hstart
  have hsize' : t.shadow.win[k].size = _ := hwrote.shadow_written hsize
  have hctl' : t.shadow.win[k].ctl = _ := hwrote.shadow_written hctl
  have hbufsel : t.shadow.bufsel k = false := by
    unfold EngineRegs.bufsel
    rw [hctl', hsel, Bool.and_false]
  obtain ⟨htable, hdirty⟩ := h.reformat_table k f
  refine h.of_window hb hwrote (wcfgList_writesWindow _ _ _ _ _ _ _ _ _) hw
    (fun j hj => by rw [hpend]; exact s.pend.reformat_ne f hj)
    ⟨?_, fun _ => ?_, fun _ => ?_, fun b hbuf => ?_⟩ (fun _ => by rw [hctl', hsel]) ?_
  · show se = bit t.shadow.win[k].ctl 0
    rw [hctl', hen]
  · show bit t.shadow.alatch k.val = true
    rw [hlatch']
    exact bit_or_oneHot _ k
  · rw [hsize']
    have hpan := hok.panOffset_le
    have hstride := hok.stride
    exact bits_sizeWord (by omega) (by omega)
  · cases hbuf
    rw [EngineRegs.selStart_eq hbufsel]
    show t.shadow.win[k].start0.toNat = s.cfg.fbBase[k].toNat + 0 * l.lineStride
    rw [hstart']
    omega
  · rw [hpend]
    refine ⟨fun b hbuf => ?_, fun hk => ?_, htable.trans (by simp [windowRecord]), hdirty⟩
    · cases hbuf
      refine ⟨⟨hok.stride_pos, hok.stride⟩, hok.height.1, hok.below, ?_, hok.halves⟩
      show 0 * l.lineStride + s.wcfgArgs.height * l.lineStride ≤ l.length
      have := hok.inside
      omega
    · show (if bl then some s.wcfgArgs.blendRecord else none) = none
      rw [hok.base hk]
      rfl

end Sys2Proof.Machine
end

-- ==== Suspend and resume keep the block legal ====
section
/-! PROOFS. SUSP takes the snapshot of a legal block and RESM restores one (rules R232 to R244); with that, every command
that does not fault keeps the block legal (rule R56). -/

namespace Sys2Proof.Machine

variable {s t : State} {snap : EngineRegs}

/-! ### SUSP -/

theorem State.Legal.suspended_block (h : s.Legal) (hp : s.power.pstate ≠ .suspended)
    (hm : t.vsync.maskdepth = s.vsync.maskdepth) (hpower : t.power = { s.power with
      pstate := .suspended, busclkOn := false, pixclkOn := false, snapshot := some s.shadow, settle := 0 })
    (hs : t.shadow = s.shadow) (hw : t.windows = s.windows) (hpend : t.pend = s.pend) : t.Legal := by
  refine .of_parts (hm.trans h.unmasked) ?_ (by rw [hs]; exact h.oneSurface) (by rw [hw, hpend]; exact h.at)
  cases h.powerLegal with
  | suspended hsus => exact absurd hsus hp
  | active _ _ _ _ hprog =>
    exact .suspended (by rw [hpower]) (by rw [hpower]) (by rw [hpower]) ⟨s.shadow, by rw [hpower], by rw [hw]; exact hprog⟩

/-! ### The restore (rules R237, R239) -/

theorem lastWrite_map {ids : List RegId} (g : RegId → Word) {r : RegId} (hr : r ∈ ids) :
    lastWrite (ids.map fun q => (q, g q)) r = some (g r) := by
  induction ids with
  | nil => cases hr
  | cons q ids ih =>
    rw [List.map_cons, lastWrite_cons]
    by_cases hmem : r ∈ ids
    · rw [ih hmem]; rfl
    · obtain rfl : r = q := by simpa [hmem] using hr
      rw [lastWrite_eq_none, if_pos rfl]
      · rfl
      · rintro w hw rfl
        obtain ⟨p, hp, rfl⟩ := List.mem_map.mp hw
        exact hmem hp

/-- Every shadowed register is restored, CTRL with OUT_EN at 0. -/
theorem lastWrite_restoreList (snap : EngineRegs) {r : RegId} (hr : r ∈ shadowIds) :
    lastWrite (restoreList snap) r
      = some (r.wired (if r = .ctrl then snap.get r &&& ~~~0x00000001#32 else snap.get r)) :=
  lastWrite_map (fun q => q.wired (if q = .ctrl then snap.get q &&& ~~~0x00000001#32 else snap.get q)) hr

/-- Writes of the re-derivation and of OUT_EN: no palette, latch or window register. -/
def OutputWrites (l : List (RegId × Word)) : Prop :=
  ∀ w ∈ l, w.1 ≠ .palctl ∧ w.1 ≠ .alatch ∧ ∀ j f, w.1 ≠ .win j f

theorem outputWrites_timingList (t : TimingImage) (v : Word) : OutputWrites (timingList t v) := by
  unfold OutputWrites timingList
  simp

/-- The registers that a successful RESM leaves are the restore's, then writes of CTRL and the timing registers. -/
theorem State.resumed_registers (s : State) (snap : Option EngineRegs) (t : TimingImage) :
    ∃ rest, OutputWrites rest ∧ (s.resumed snap t).shadow = (s.writeAll (restoreWrites snap ++ rest)).shadow
      ∧ (s.resumed snap t).engine = (s.writeAll (restoreWrites snap ++ rest)).engine := by
  generalize hr : s.writeAll (restoreWrites snap) = r
  obtain ⟨timing, htiming, hrederived⟩ : ∃ timing, OutputWrites timing ∧ r.rederived t = r.writeAll timing := by
    refine ⟨_, ?_, State.rederived_eq r t⟩
    split
    · exact outputWrites_timingList t _
    · exact fun w hw => by cases hw
  generalize hv : (r.rederived t).shadow.ctrl ||| snapshotOutEn snap = v
  have hregs : s.writeAll (restoreWrites snap ++ (timing ++ [(.ctrl, v)])) = (r.rederived t).regWrite .ctrl v := by
    rw [State.writeAll_append, State.writeAll_append, hr, ← hrederived, State.writeAll_cons, State.writeAll_nil]
  refine ⟨timing ++ [(.ctrl, v)], fun w hw => ?_, ?_, ?_⟩
  · rcases List.mem_append.mp hw with hw | hw
    · exact htiming w hw
    · obtain rfl := List.mem_singleton.mp hw
      simp
  · rw [hregs, ← hv, ← hr]
    rfl
  · rw [hregs, ← hv, ← hr]
    rfl

/-- A register that only the restore writes. -/
theorem lastWrite_resumed {rest : List (RegId × Word)} {r : RegId} (hrest : ∀ w ∈ rest, w.1 ≠ r) (hr : r ∈ shadowIds)
    (hctrl : r ≠ .ctrl) : lastWrite (restoreList snap ++ rest) r = some (r.wired (snap.get r)) := by
  rw [lastWrite_append, lastWrite_eq_none hrest, lastWrite_restoreList snap hr, if_neg hctrl]
  rfl

theorem mem_shadowIds_window (i : Win) : RegId.win i .ctl ∈ shadowIds ∧ RegId.win i .size ∈ shadowIds
    ∧ RegId.win i .start0 ∈ shadowIds ∧ (i.val ≤ 1 → RegId.win i .start1 ∈ shadowIds) := by
  revert i
  decide

/-- After the restore and writes of output registers, every window is programmed as the snapshot says. -/
theorem restored_programmed {l rest : List (RegId × Word)} (hl : l = restoreList snap ++ rest) (hrest : OutputWrites rest)
    (hwrote : Wrote s l t) {w : PerWindow Window} (hprog : Programmed snap w) :
    Programmed t.shadow w ∧ t.shadow.OneSurface := by
  obtain ⟨hpal, hat⟩ := programmed_iff.mp hprog
  have hwin : ∀ (i : Win) f, RegId.win i f ∈ shadowIds →
      t.shadow.get (.win i f) = RegId.wired (.win i f) (snap.get (.win i f)) := fun i f hmem =>
    hwrote.shadow_written (by
      rw [hl]
      exact lastWrite_resumed (fun v hv => (hrest v hv).2.2 i f) hmem (by simp))
  have hpalctl : t.shadow.palctl = snap.palctl := hwrote.shadow_written (r := .palctl) (by
    rw [hl]
    exact lastWrite_resumed (fun v hv => (hrest v hv).1) (by decide) (by simp))
  have halatch : t.shadow.alatch = snap.alatch := hwrote.shadow_written (r := .alatch) (by
    rw [hl]
    exact lastWrite_resumed (fun v hv => (hrest v hv).2.1) (by decide) (by simp))
  have hctl : ∀ i : Win, t.shadow.win[i].ctl = RegId.wired (.win i .ctl) snap.win[i].ctl := fun i =>
    hwin i .ctl (mem_shadowIds_window i).1
  have hagree : ∀ i, AgreeOn i snap t.shadow := fun i => by
    obtain ⟨-, hsize, hstart0, hstart1⟩ := mem_shadowIds_window i
    refine ⟨?_, congrArg (bit · i.val) halatch, hwin i .size hsize,
      EngineRegs.selStart_congr (EngineRegs.bufsel_wired (hctl i) rfl) (hwin i .start0 hstart0)
        fun hi => hwin i .start1 (hstart1 hi)⟩
    unfold EngineRegs.winEn
    rw [hctl i, bit_wired_enable]
  exact ⟨programmed_iff.mpr ⟨hpalctl.trans hpal, fun i => (hat i).of_agree (hagree i)⟩,
    fun i hi => by rw [hctl i]; exact bit_wired_surface i _ hi⟩

/-- A legal block that is not Active holds the snapshot of a programmed block. -/
theorem State.Legal.snapshot (h : s.Legal) (hp : s.power.pstate ≠ .active) : s.power.pstate = .suspended
    ∧ ∃ snap, s.power.snapshot = some snap ∧ Programmed snap s.windows := by
  cases h.powerLegal with
  | active hact => exact absurd hact hp
  | suspended hsus _ _ hsnap => exact ⟨hsus, hsnap⟩

/-- RESM that comes to its end. -/
theorem State.Legal.resumed (h : s.Legal) (hp : s.power.pstate ≠ .active) (tm : TimingImage) :
    (s.powered.resumed s.power.snapshot tm).Legal := by
  obtain ⟨-, snap, hsnap, hprog⟩ := h.snapshot hp
  obtain ⟨rest, hrest, hshadow, hengine⟩ := s.powered.resumed_registers s.power.snapshot tm
  have hregisters : ((s.powered.writeAll (restoreWrites s.power.snapshot)).rederived tm).vsync = s.vsync
      ∧ ((s.powered.writeAll (restoreWrites s.power.snapshot)).rederived tm).windows = s.windows
      ∧ ((s.powered.writeAll (restoreWrites s.power.snapshot)).rederived tm).pend = s.pend := by
    rw [State.rederived_eq, State.writeAll_vsync, State.writeAll_windows, State.writeAll_pend, State.writeAll_vsync,
      State.writeAll_windows, State.writeAll_pend]
    exact ⟨rfl, rfl, rfl⟩
  have hpower : (s.powered.resumed s.power.snapshot tm).power
      = { s.powered.power with pstate := .active, snapshot := none } := rfl
  have hkept : (s.powered.resumed s.power.snapshot tm).vsync = s.vsync
      ∧ (s.powered.resumed s.power.snapshot tm).windows = s.windows
      ∧ (s.powered.resumed s.power.snapshot tm).pend = s.pend := hregisters
  generalize s.powered.resumed s.power.snapshot tm = u at hshadow hengine hpower hkept
  obtain ⟨hv, hw, hpend⟩ := hkept
  rw [hsnap] at hshadow hengine
  generalize hl : restoreList snap ++ rest = l
  have hwrites : restoreWrites (some snap) ++ rest = l := hl
  rw [hwrites] at hshadow hengine
  have hwrote := Wrote.writeAll s.powered l
  obtain ⟨hprogrammed, hsurface⟩ := restored_programmed hl.symm hrest hwrote hprog
  refine .of_parts (by rw [hv]; exact h.unmasked) ?_ (by rw [hshadow]; exact hsurface) (by rw [hw, hpend]; exact h.at)
  refine .active (by rw [hpower]) (by rw [hpower]; rfl) (by rw [hpower]; rfl) (fun r hr => ?_)
    (by rw [hshadow, hw]; exact hprogrammed)
  have hsome : (lastWrite l r).isSome = true := by
    rw [← hl, lastWrite_append, lastWrite_restoreList snap hr]
    cases lastWrite rest r <;> rfl
  obtain ⟨v, hwritten⟩ := Option.isSome_iff_exists.mp hsome
  rw [hshadow, hengine, hwrote.shadow, hwrote.regs, hwritten]
  rfl

/-- RESM's fail path keeps the snapshot (rules R237, R242). -/
theorem State.Legal.resumeGivenUp (h : s.Legal) (hp : s.power.pstate ≠ .active) {u : State} (hv : u.vsync = s.vsync)
    (hsnap : u.power.snapshot = s.power.snapshot) (hsurface : u.shadow.OneSurface) (hw : u.windows = s.windows)
    (hpend : u.pend = s.pend) : u.resumeGivenUp.Legal := by
  obtain ⟨-, snap, hsome, hprog⟩ := h.snapshot hp
  have hgiven : u.resumeGivenUp.power = { u.power with pstate := .suspended, busclkOn := false, pixclkOn := false } := rfl
  have hkept : u.resumeGivenUp.vsync = u.vsync ∧ u.resumeGivenUp.shadow = u.shadow
      ∧ u.resumeGivenUp.windows = u.windows ∧ u.resumeGivenUp.pend = u.pend := ⟨rfl, rfl, rfl, rfl⟩
  generalize u.resumeGivenUp = t at hgiven hkept
  obtain ⟨hv', hs', hw', hp'⟩ := hkept
  refine .of_parts (by rw [hv', hv]; exact h.unmasked) ?_ (by rw [hs']; exact hsurface)
    (by rw [hw', hw, hp', hpend]; exact h.at)
  exact .suspended (by rw [hgiven]) (by rw [hgiven]) (by rw [hgiven])
    ⟨snap, by rw [hgiven]; exact hsnap.trans hsome, by rw [hw', hw]; exact hprog⟩

/-- RESM whose re-derivation is refused. -/
theorem State.Legal.notTimed (h : s.Legal) (hp : s.power.pstate ≠ .active) :
    (s.powered.writeAll (restoreWrites s.power.snapshot)).resumeGivenUp.Legal := by
  obtain ⟨-, snap, hsnap, hprog⟩ := h.snapshot hp
  have hwrote := Wrote.writeAll s.powered (restoreWrites s.power.snapshot)
  have hl : restoreWrites s.power.snapshot = restoreList snap ++ [] := by rw [hsnap, List.append_nil]; rfl
  obtain ⟨-, hsurface⟩ := restored_programmed hl (fun w hw => by cases hw) hwrote hprog
  exact h.resumeGivenUp hp (State.writeAll_vsync _) (by rw [hwrote.power]; rfl) hsurface (State.writeAll_windows _)
    (State.writeAll_pend _)

/-! ### Every command -/

theorem FaultedAt.fault_ne {r : RegId} {v : Word} {depth : Nat} (h : FaultedAt s t r v depth) : t.port.fault ≠ none := by
  obtain ⟨todo, rfl⟩ := h
  intro hnone
  cases hnone

theorem Wrote.of_eq {l : List (RegId × Word)} {u : State} (h : Wrote s l u) (hv : t.vsync = u.vsync) (hp : t.power = u.power)
    (hs : t.shadow = u.shadow) (he : t.engine = u.engine) : Wrote s l t where
  maskdepth := by rw [hv]; exact h.maskdepth
  power := hp.trans h.power
  shadow := by rw [hs]; exact h.shadow
  regs := by rw [he]; exact h.regs

theorem Leaves.legal {i : Instr} (h : Leaves s i t) (hs : s.Legal) (hf : t.port.fault = none) : t.Legal := by
  cases h with
  | answered => exact hs.of_samePower rfl rfl rfl rfl rfl hs.at
  | faulted _ h => exact absurd hf h.fault_ne
  | faultedFilled _ _ _ _ _ _ _ _ h => exact absurd hf h.fault_ne
  | timed hb t ctrl =>
    exact hs.of_output hb ((Wrote.writeAll s _).of_eq rfl rfl rfl rfl) (outputWrites_timingList t ctrl)
      (State.writeAll_windows _) (State.writeAll_pend _)
  | turnedOn hb ctrl =>
    exact hs.of_output hb ((Wrote.writeAll s [(.inten, 1), (.ctrl, ctrl)]).of_eq rfl rfl rfl rfl) (by simp)
      (State.writeAll_windows _) (State.writeAll_pend _)
  | turnedOff hb ctrl =>
    exact hs.of_output hb ((Wrote.writeAll s [(.ctrl, ctrl)]).of_eq rfl rfl rfl rfl) (by simp)
      (State.writeAll_windows _) (State.writeAll_pend _)
  | @configured hb k fmt se db bl pd f l hcheck u hu =>
    obtain ⟨m, hm⟩ := s.filled_eq k f l
    have hwrote : Wrote s (wcfgList s.shadow.alatch k f s.wcfgArgs l s.cfg.fbBase[k] se db bl) u := by
      have hfilled := Wrote.writeAll (s.filled k f l) (wcfgList s.shadow.alatch k f s.wcfgArgs l s.cfg.fbBase[k] se db bl)
      rw [hu]
      rw [hm] at hfilled ⊢
      exact ⟨hfilled.maskdepth, hfilled.power, hfilled.shadow, hfilled.regs⟩
    exact hs.wcfg hb hcheck (hwrote.of_eq rfl rfl rfl rfl) rfl rfl
  | @panned hb k p hp u hu =>
    have hwrote : Wrote s (wpanList s.shadow k p) u := by rw [hu]; exact .writeAll s _
    have hpend : u.pend = s.pend := by rw [hu, State.writeAll_pend]
    exact hs.wpan hb hp (hwrote.of_eq rfl rfl rfl rfl) rfl hpend
  | @enabled hb k u hu =>
    have hwrote : Wrote s [(.win k .ctl, RegId.wired (.win k .ctl) (s.shadow.win[k].ctl ||| 0x00000001#32))] u := by
      rw [hu]; exact .writeAll s _
    have hpend : u.pend = s.pend := by rw [hu, State.writeAll_pend]
    exact hs.of_enable hb true (hwrote.of_eq rfl rfl rfl rfl) (bit_or_one _) (by simp [bit]) rfl hpend
  | @disabled hb k u hu =>
    have hwrote : Wrote s [(.win k .ctl, RegId.wired (.win k .ctl) (s.shadow.win[k].ctl &&& ~~~0x00000001#32))] u := by
      rw [hu]; exact .writeAll s _
    have hpend : u.pend = s.pend := by rw [hu, State.writeAll_pend]
    exact hs.of_enable hb false (hwrote.of_eq rfl rfl rfl rfl) (bit_and_not_one _) (by simp [bit]) rfl hpend
  | stored k idx v hformat => exact hs.of_samePower rfl rfl rfl rfl rfl (hs.at_stored hformat _ v)
  | requested k => exact hs.of_samePower rfl rfl rfl rfl rfl hs.at
  | flushed hb k =>
    have hflushed := hs.flushed hb k
    exact hflushed.of_samePower rfl rfl rfl rfl rfl hflushed.at
  | armed => exact hs.of_samePower rfl rfl rfl rfl rfl hs.at
  | suspended hp => exact hs.suspended_block hp (State.ticked_maskdepth _ s) rfl rfl rfl rfl
  | resumed hp tm => exact hs.resumed hp tm
  | notReady hp => exact hs.resumeGivenUp hp rfl rfl hs.oneSurface rfl rfl
  | notTimed hp => exact hs.notTimed hp

/-- Settles O57: each effect that a command can have keeps the block legal, and a block whose bus clock runs is Active. -/
theorem commandsKeepLegal : Obligations.CommandsKeepLegal :=
  fun _ _ _ hs hu he hf => (exec_leaves hu he).legal hs hf

end Sys2Proof.Machine
end

-- ==== Who writes memory ====
section
/-! PROOFS. What one step can do to frame-buffer memory (rules R70, R72, R157): leave it, store one zero byte of a
zero-fill, or store one aligned unit for the host. -/

namespace Sys2Proof.Machine

/-- The memories that a micro-step or a scheduled choice can leave. -/
inductive MemoryStep (m : Memory) : Memory → Prop
  | same : MemoryStep m m
  | filled (a : Nat) : MemoryStep m (m.write a 0)
  | stored (unit : MemUnit) (v : Word) : MemoryStep m (m.writeLE unit.address unit.bytes v.toNat)

theorem MemoryStep.of_eq {m m' : Memory} (h : m' = m) : MemoryStep m m' := by
  subst h
  exact .same

theorem MemoryStep.wf {m m' : Memory} (h : MemoryStep m m') (hm : m.wf = true) : m'.wf = true := by
  cases h with
  | same => exact hm
  | filled a => exact m.wf_write a 0 hm
  | stored unit v => exact m.wf_writeLE _ _ _ hm

/-- Of the micro-steps only a byte of the zero-fill writes memory (rules R70, R157). -/
theorem microStep_memory (op : MicroOp) (s : State) : MemoryStep s.env.mem (microStep op s).1.env.mem := by
  cases op with
  | zeroFill a n =>
    cases n with
    | zero => exact .same
    | succ n => exact .filled a
  | regHardware r v =>
    show MemoryStep _ (microRegHardware s r v).1.env.mem
    unfold microRegHardware
    split <;> exact .same
  | palWrite i k v =>
    show MemoryStep _ (microPalWrite s i k v).1.env.mem
    unfold microPalWrite
    split
    · exact .of_eq (by simp)
    · exact .same
  | pollReady =>
    show MemoryStep _ (microPoll s).1.env.mem
    unfold microPoll
    split <;> exact .same
  | rederive =>
    show MemoryStep _ (microRederive s).1.env.mem
    unfold microRederive
    split
    · split <;> exact .same
    · exact .same
  | _ => exact .same

theorem sequencerStep_memory (op : MicroOp) (rest : List MicroOp) (s : State) :
    MemoryStep s.env.mem (sequencerStep op rest s).env.mem := by
  obtain ⟨c, hc⟩ := sequencerStep_eq op rest s
  rw [hc]
  exact microStep_memory op s

theorem handlerStep_memory (op : MicroOp) (rest : List MicroOp) (s : State) :
    MemoryStep s.env.mem (handlerStep op rest s).env.mem := by
  obtain ⟨h, hh⟩ := handlerStep_eq op rest s
  rw [hh]
  exact microStep_memory op s

/-- The register port is not a way into memory (rules R71, R77). -/
theorem State.writePort_mem (s : State) (o : Nat) (v : Word) : (s.writePort o v).env.mem = s.env.mem := by
  rcases writePort_cases s o v with hw | ⟨-, hw⟩ | ⟨-, ⟨k, hw⟩ | hw | ⟨-, r, hw⟩⟩
  case inr.inl =>
    rw [hw]
    rcases doorbell_cases s v with hd | ⟨-, -, hd⟩
    · rw [hd]
    · rw [hd, State.acceptCommand_env]
  all_goals rw [hw]

theorem eventStep_memory {e : Event} {s t : State} (he : eventStep e s = .next t) :
    MemoryStep s.env.mem t.env.mem := by
  cases e with
  | sequencer =>
    cases he
    rcases sequencerTurn_cases s with hs | ⟨op, rest, -, -, -, hs⟩ <;> rw [hs]
    · exact .same
    · exact sequencerStep_memory op rest s
  | handler =>
    cases he
    rcases handlerTurn_cases s with hs | ⟨-, -, -, hs⟩ | ⟨op, rest, -, -, hs⟩ <;> rw [hs]
    · exact .same
    · exact .same
    · exact handlerStep_memory op rest s
  | frameStart =>
    cases he
    unfold frameTurn
    split <;> exact .same
  | scanOut =>
    cases he
    unfold scanTurn
    split
    · exact .same
    · split <;> exact .same
  | tick =>
    cases he
    unfold tickTurn
    split <;> exact .same
  | hostRead w o => rcases hostRead_next he with rfl | ⟨x, rfl⟩ <;> exact .same
  | hostWrite w o v =>
    rcases hostWrite_next he with rfl | ⟨-, rfl⟩ | rfl
    · exact .same
    · exact .same
    · exact .of_eq (s.writePort_mem o v)
  | memRead a => cases he; exact .same
  | memWrite unit v => cases he; exact .stored unit v
  | domainReady l => cases he; exact .same
  | reset => cases he; exact .same

theorem autoStep_memory {s t : State} (ha : autoStep s = some t) : MemoryStep s.env.mem t.env.mem := by
  obtain ⟨-, ⟨op, rest, -, rfl⟩ | ⟨-, op, rest, -, rfl | rfl⟩⟩ := autoStep_cases ha
  · exact handlerStep_memory op rest s
  · exact .same
  · exact sequencerStep_memory op rest s

/-- The canonical form is kept between the steps of every interleaving. -/
theorem memoryWf_invariant : StepInvariant (fun _ => True) (fun s => s.env.mem.wf = true) where
  scheduled _ _ _ h := h
  turned _ _ h := h
  event _ _ _ _ h he := (eventStep_memory he).wf h
  auto _ _ h ha := (autoStep_memory ha).wf h
  ends _ _ _ _ h he := by cases he <;> exact h
  launches _ _ _ _ h _ := h

/-- Settles O54: whatever a step does, it does to memory by writes that keep the canonical form. -/
theorem memoryStaysCanonical : Obligations.MemoryStaysCanonical := fun _ _ h hstep =>
  memoryWf_invariant.step (fun _ => trivial) (fun _ _ => trivial) h hstep

end Sys2Proof.Machine
end

-- ==== Host accesses to the port ====
section
/-! PROOFS. Host reads of the register port, and the accesses that the port does not define (rules R76 to R78). -/

namespace Sys2Proof.Machine

/-- Outside the engine domain a read gives the value in every state. -/
theorem State.hostRead_control {s : State} {o : Nat} (halign : o % 4 = 0) (hlt : o < 0x5000) (ho : ¬ engineOffset o) :
    s.hostRead .word o = .next (s.emit (.readData o (s.portValue o))) := by
  unfold State.hostRead
  rw [if_pos ((portAccessDefined_iff _ _).mpr ⟨rfl, halign, hlt⟩), if_neg (by rwa [domainOf_engine_iff])]

/-- The port's values do not depend on what the block has sent out. -/
theorem State.portValue_emit (s : State) (x : Output) (o : Nat) : (s.emit x).portValue o = s.portValue o := rfl

/-- Settles O8. -/
theorem hostReads : Obligations.HostReads := by
  intro s o halign hlt
  refine ⟨State.hostRead_control halign hlt, fun ho hf hb => ?clocked, fun ho hf hb => ?gated,
    fun v => ⟨.emit s _, rfl, rfl, s.portValue_emit _ o⟩⟩
  case clocked => simp [State.hostRead_engine halign hlt ho, State.not_faulted_of_none hf, hb]
  case gated => simp [State.hostRead_engine halign hlt ho, State.not_faulted_of_none hf, hb]

/-- Settles O9: both kinds of access look first whether the port defines them. -/
theorem undefinedAccesses : Obligations.UndefinedAccesses := by
  intro s width o v hundefined
  have hdef : ¬ portAccessDefined width o = true := by
    rw [portAccessDefined_iff]
    rintro ⟨rfl, halign, hlt⟩
    rcases hundefined with hw | ha | ho
    · exact hw rfl
    · exact ha halign
    · omega
  unfold State.hostRead State.hostWrite
  rw [if_neg hdef, if_neg hdef]
  exact ⟨rfl, rfl⟩

end Sys2Proof.Machine
end

-- ==== Memory: what is written is read back ====
section
/-! PROOFS. Little-endian accesses (rules R71, R72), and the byte steps of a host write in whatever order (rule R87). -/

namespace Sys2Proof.Machine

/-! ### Little-endian accesses -/

theorem Memory.read_writeLE_outside (m : Memory) (addr n v : Nat) (h : addr + n ≤ Config.memorySize) {x : Nat}
    (hx : x < Config.memorySize) (hout : x < addr ∨ addr + n ≤ x) : (m.writeLE addr n v).read x = m.read x := by
  induction n generalizing m addr v with
  | zero => rfl
  | succ n ih =>
    have hne : x % Config.memorySize ≠ addr % Config.memorySize := by
      rw [Nat.mod_eq_of_lt hx, Nat.mod_eq_of_lt (by omega)]
      omega
    calc ((m.write addr (BitVec.ofNat 8 v)).writeLE (addr + 1) n (v / 256)).read x
        = (m.write addr (BitVec.ofNat 8 v)).read x := ih _ _ _ (by omega) (by omega)
      _ = m.read x := m.read_write_ne hne _

theorem Memory.readLE_writeLE (m : Memory) (addr n v : Nat) (h : addr + n ≤ Config.memorySize) :
    (m.writeLE addr n v).readLE addr n = v % 256 ^ n := by
  induction n generalizing m addr v with
  | zero => simp [Memory.readLE, Nat.mod_one]
  | succ n ih =>
    have hlow : ((m.write addr (BitVec.ofNat 8 v)).writeLE (addr + 1) n (v / 256)).read addr = BitVec.ofNat 8 v := by
      rw [Memory.read_writeLE_outside _ _ _ _ (by omega) (by omega) (by omega), Memory.read_write_self]
    calc (m.writeLE addr (n + 1) v).readLE addr (n + 1)
        = v % 256 + 256 * (v / 256 % 256 ^ n) := by
          rw [Memory.readLE, Memory.writeLE, hlow, ih _ _ _ (by omega), BitVec.toNat_ofNat]
      _ = v % 256 ^ (n + 1) := by rw [Nat.pow_succ', Nat.mod_mul]

theorem MemUnit.aligned_inside (unit : MemUnit) :
    unit.address % unit.bytes = 0 ∧ unit.address + unit.bytes ≤ Config.memorySize := by
  unfold Config.memorySize
  cases unit with
  | byte n => have := n.isLt; simp only [MemUnit.address, MemUnit.bytes]; omega
  | half n => have := n.isLt; simp only [MemUnit.address, MemUnit.bytes]; omega
  | word n => have := n.isLt; simp only [MemUnit.address, MemUnit.bytes]; omega

/-! ### The byte steps of a host write -/

/-- One byte step of a host write (rule R87). -/
def byteStore (a : Word) (b : Byte) : Event := .memWrite (.byte a) (word b.toNat)

theorem eventStep_byteStore (a : Word) (b : Byte) (s : State) : eventStep (byteStore a b) s
    = .next { s with env := { s.env with mem := s.env.mem.write a.toNat b } } := by
  have hbyte : BitVec.ofNat 8 (word b.toNat).toNat = b := by
    rw [word_toNat (by have := b.isLt; omega), BitVec.ofNat_toNat, BitVec.setWidth_eq]
  show Host.Outcome.next { s with env := { s.env with
    mem := s.env.mem.write a.toNat (BitVec.ofNat 8 (word b.toNat).toNat) } } = _
  rw [hbyte]

theorem byteStore_inj {a a' : Word} {b b' : Byte} : byteStore a b = byteStore a' b' ↔ a = a' ∧ b = b' := by
  constructor
  · intro h
    simp only [byteStore, Event.memWrite.injEq, MemUnit.byte.injEq] at h
    obtain ⟨ha, hb⟩ := h
    refine ⟨ha, BitVec.eq_of_toNat_eq ?_⟩
    rw [← word_toNat (n := b.toNat) (by have := b.isLt; omega), hb, word_toNat (by have := b'.isLt; omega)]
  · rintro ⟨rfl, rfl⟩
    rfl

/-- What byte steps leave: at an address for which they have one byte only, that byte; where they have none, the old byte.
Nothing is asked of their order. -/
structure BytesStored (es : List Event) (m m' : Memory) : Prop where
  stored : ∀ a b, byteStore a b ∈ es → (∀ b', byteStore a b' ∈ es → b' = b) → m'.read a.toNat = b
  kept : ∀ x, x < Config.memorySize → (∀ a b, byteStore a b ∈ es → a.toNat ≠ x) → m'.read x = m.read x

theorem performAll_byteStores (es : List Event) (s : State) (h : ∀ e ∈ es, ∃ a b, e = byteStore a b) :
    ∃ t, performAll es s = .next t ∧ BytesStored es s.env.mem t.env.mem := by
  induction es generalizing s with
  | nil => exact ⟨s, rfl, by simp, fun _ _ _ => rfl⟩
  | cons e es ih =>
    obtain ⟨a, b, rfl⟩ := h e List.mem_cons_self
    obtain ⟨t, ht, hstored, hkept⟩ := ih { s with env := { s.env with mem := s.env.mem.write a.toNat b } }
      fun e he => h e (List.mem_cons_of_mem _ he)
    refine ⟨t, by rw [performAll, eventStep_byteStore]; exact ht, fun a' b' hmem huniq => ?_, fun x hx hnone => ?_⟩
    · have huniq' : ∀ b'', byteStore a' b'' ∈ es → b'' = b' := fun b'' hb => huniq b'' (List.mem_cons_of_mem _ hb)
      by_cases hlater : byteStore a' b' ∈ es
      · exact hstored a' b' hlater huniq'
      · have hfirst : byteStore a' b' = byteStore a b := (List.mem_cons.mp hmem).resolve_right hlater
        obtain ⟨rfl, rfl⟩ := byteStore_inj.mp hfirst
        have hno : ∀ a'' b'', byteStore a'' b'' ∈ es → a''.toNat ≠ a'.toNat := by
          intro a'' b'' hb heq
          obtain rfl := BitVec.eq_of_toNat_eq heq
          obtain rfl := huniq' b'' hb
          exact hlater hb
        rw [hkept a'.toNat a'.isLt hno]
        exact Memory.read_write_self _ _ _
    · rw [hkept x hx fun a' b' hb => hnone a' b' (List.mem_cons_of_mem _ hb)]
      have hne : a.toNat ≠ x := hnone a b List.mem_cons_self
      refine Memory.read_write_ne _ ?_ _
      rw [Nat.mod_eq_of_lt hx, Nat.mod_eq_of_lt a.isLt]
      exact hne.symm

theorem mem_byteWrites {addr : Word} {bytes : List Byte} {e : Event} : e ∈ byteWrites addr bytes
    ↔ ∃ (k : Nat) (h : k < bytes.length), e = byteStore (addr + BitVec.ofNat 32 k) bytes[k] := by
  induction bytes generalizing addr with
  | nil => simp [byteWrites]
  | cons b bytes ih =>
    rw [byteWrites, List.mem_cons, ih]
    have hnext : ∀ k : Nat, addr + 1 + BitVec.ofNat 32 k = addr + BitVec.ofNat 32 (k + 1) := by
      intro k
      rw [BitVec.ofNat_add, BitVec.add_assoc, BitVec.add_comm 1]
      rfl
    constructor
    · rintro (rfl | ⟨k, hk, rfl⟩)
      · exact ⟨0, by simp, by simp [byteStore]⟩
      · exact ⟨k + 1, by simpa using hk, by rw [hnext]; rfl⟩
    · rintro ⟨k, hk, rfl⟩
      cases k with
      | zero => exact .inl (by simp [byteStore])
      | succ k => exact .inr ⟨k, by simpa using hk, by rw [hnext]; rfl⟩

/-- Below the top of memory the addresses of a host write's bytes do not wrap. -/
theorem toNat_add_ofNat {addr : Word} {k : Nat} (h : addr.toNat + k < Config.memorySize) :
    (addr + BitVec.ofNat 32 k).toNat = addr.toNat + k := by
  unfold Config.memorySize at h
  rw [BitVec.toNat_add, BitVec.toNat_ofNat]
  omega

/-- The byte steps of a host write inside memory, in whatever order (rule R87). -/
theorem performAll_byteWrites (s : State) {addr : Word} {bytes : List Byte} {es : List Event}
    (hperm : es.Perm (byteWrites addr bytes)) (hin : addr.toNat + bytes.length ≤ Config.memorySize) :
    ∃ t, performAll es s = .next t
      ∧ (∀ (k : Nat) (h : k < bytes.length), t.env.mem.read (addr.toNat + k) = bytes[k])
      ∧ ∀ a, a < Config.memorySize → (a < addr.toNat ∨ addr.toNat + bytes.length ≤ a) →
          t.env.mem.read a = s.env.mem.read a := by
  have hmem : ∀ e, e ∈ es ↔ ∃ (k : Nat) (h : k < bytes.length), e = byteStore (addr + BitVec.ofNat 32 k) bytes[k] :=
    fun e => hperm.mem_iff.trans mem_byteWrites
  have haddr : ∀ k, k < bytes.length → (addr + BitVec.ofNat 32 k).toNat = addr.toNat + k :=
    fun k hk => toNat_add_ofNat (by omega)
  obtain ⟨t, ht, hstored, hkept⟩ := performAll_byteStores es s fun e he => by
    obtain ⟨k, hk, rfl⟩ := (hmem e).mp he
    exact ⟨_, _, rfl⟩
  refine ⟨t, ht, fun k hk => ?_, fun a ha hout => hkept a ha fun a' b' hb => ?_⟩
  · rw [← haddr k hk]
    refine hstored _ _ ((hmem _).mpr ⟨k, hk, rfl⟩) fun b' hb => ?_
    obtain ⟨j, hj, he⟩ := (hmem _).mp hb
    obtain ⟨hsame, rfl⟩ := byteStore_inj.mp he
    have hkj : addr.toNat + k = addr.toNat + j := by rw [← haddr k hk, ← haddr j hj, hsame]
    obtain rfl : k = j := by omega
    rfl
  · obtain ⟨k, hk, he⟩ := (hmem _).mp hb
    obtain ⟨rfl, -⟩ := byteStore_inj.mp he
    rw [haddr k hk]
    omega

/-- Settles O53. -/
theorem memoryReadWrite : Obligations.MemoryReadWrite :=
  ⟨fun m addr n v h => ⟨m.readLE_writeLE addr n v h, fun _ ha hout => m.read_writeLE_outside addr n v h ha hout⟩,
    fun _ _ => rfl, fun _ unit _ => ⟨unit.aligned_inside.1, unit.aligned_inside.2, rfl⟩,
    fun s _ _ _ hperm hin => performAll_byteWrites s hperm hin⟩

end Sys2Proof.Machine
end

-- ==== Pixel fetches ====
section
/-! PROOFS. The fetch of a pixel of a window that has been latched whole: its address, the limit it is compared with, and
its alignment (rules R82, R83, R85, R198). -/

namespace Sys2Proof.Machine

/-- The last byte of pixel (lx, ly) lies inside the window's lines. -/
theorem pixel_end_le {lx ly width height stride bpp : Nat} (hrow : width * bpp ≤ stride) (hlx : lx < width)
    (hly : ly < height) : ly * stride + lx * bpp + bpp ≤ height * stride := by
  calc ly * stride + lx * bpp + bpp = ly * stride + (lx + 1) * bpp := by ring
    _ ≤ ly * stride + stride := by gcongr; exact (Nat.mul_le_mul_right bpp hlx).trans hrow
    _ = (ly + 1) * stride := by ring
    _ ≤ height * stride := Nat.mul_le_mul_right stride hly

/-- An address below 2^32 does not wrap. -/
theorem Engine.pixelAddress_eq (e : Engine) (i : Win) (f : Format) {lx ly stride : Nat}
    (hstride : bits e.regs.win[i].size 15 0 = stride)
    (h : e.actStart[i].toNat + ly * stride + lx * f.bpp < Config.memorySize) :
    e.pixelAddress i f lx ly = e.actStart[i].toNat + ly * stride + lx * f.bpp := by
  unfold Engine.pixelAddress
  rw [hstride, Nat.mod_eq_of_lt h]

/-- The fetch compares with the exact end address, 2^32 among them, which its latch holds as 0 (rule R85, log entry
11). -/
theorem Engine.fetchLimit_eq (e : Engine) (i : Win) {span : Nat} (hpos : 0 < span) (hlt : span < Config.memorySize)
    (hfit : e.actStart[i].toNat + span ≤ Config.memorySize)
    (hend : e.actEnd[i] = addressWord (e.actStart[i].toNat + span)) :
    e.fetchLimit i = e.actStart[i].toNat + span := by
  have hword_zero : (0 : Word).toNat = 0 := rfl
  unfold Engine.fetchLimit
  rcases Nat.lt_or_eq_of_le hfit with hbelow | htop
  · have hword : e.actEnd[i].toNat = e.actStart[i].toNat + span := by rw [hend]; exact word_toNat hbelow
    rw [if_neg, hword]
    rintro ⟨hzero, -⟩
    rw [hzero, hword_zero] at hword
    omega
  · rw [if_pos, htop]
    refine ⟨by rw [hend, htop]; rfl, fun hzero => ?_⟩
    rw [hzero, hword_zero] at htop
    omega

theorem Format.bpp_dvd_page (f : Format) : f.bpp ∣ Config.page := by
  cases f <;> decide

/-- Settles O52. -/
theorem fetchStaysInBuffer : Obligations.FetchStaysInBuffer := by
  intro s i f d lx ly hstride hrow hlx hly hspan hfit
  have hin := pixel_end_le hrow hlx hly
  have hbpp := f.bpp_pos
  have haddr := s.engine.pixelAddress_eq i f (lx := lx) (ly := ly) hstride (by omega)
  refine ⟨fun hend => ?value, fun configured y hplatform hi hwhole hstart => ⟨haddr, ?aligned⟩⟩
  case value =>
    have hlimit := s.engine.fetchLimit_eq i (by omega) hspan hfit hend
    unfold State.fetchPixel
    rw [hlimit, haddr, if_pos (by omega)]
  case aligned =>
    obtain ⟨hbase, -⟩ := hplatform.1 i hi
    have hdvd : f.bpp ∣ s.cfg.fbBase[i].toNat := f.bpp_dvd_page.trans (Nat.dvd_of_mod_eq_zero hbase)
    have hline : f.bpp ∣ d.lineStride := by rw [hwhole]; exact Nat.dvd_mul_left _ _
    rw [haddr, hstart]
    exact Nat.mod_eq_zero_of_dvd (Nat.dvd_add (Nat.dvd_add (Nat.dvd_add hdvd (hline.mul_left y)) (hline.mul_left ly))
      (Nat.dvd_mul_left _ _))

end Sys2Proof.Machine
end

-- ==== WCFG and memory ====
section
/-! PROOFS. WCFG past its checks in full, and what its zero-fill does to memory (rules R82, R155, R157, R158). -/

namespace Sys2Proof.Machine

variable {s : State}

/-- Settles O23. -/
theorem wcfgCommand : Obligations.WcfgCommand :=
  ⟨addressWords_hold, fun _ i _ _ _ _ _ _ _ hc h hcheck =>
    ⟨fun hb => wcfg_clocked h hb i hc hcheck, fun hb => wcfg_gated h hb i hc hcheck⟩⟩

theorem Window.reuses_iff (d : Window) (f : Format) (length : Nat) : d.reuses f length = true
    ↔ ∃ b, d.buffer = some b ∧ b.length = length ∧ d.format = some f := by
  unfold Window.reuses
  cases d.buffer with
  | none => simp
  | some b => simp

/-- Check c10 of rule R154: the buffer lies in the window's carve-out. -/
theorem wcfgCheck_capacity {c : ConfigBank} {i : Win} {fmt : BitVec 2} {db bl : Bool} {a : WcfgArgs} {f : Format}
    {l : Layout} (h : wcfgCheck c i fmt db bl a = .ok (f, l)) : l.length ≤ c.fbCap[i].toNat := by
  unfold wcfgCheck at h
  (repeat' split at h) <;> cases h
  rename_i hgeometry
  simp only [geometryFits, Bool.and_eq_true, decide_eq_true_eq] at hgeometry
  obtain ⟨⟨⟨-, hcap⟩, -⟩, -⟩ := hgeometry
  exact hcap

/-- With the bus clock on or off, an undisturbed WCFG past its checks leaves the memory of its zero-fill. -/
theorem wcfg_mem {t : State} {i : Win} {fmt : BitVec 2} {se db bl pd : Bool} {f : Format} {l : Layout}
    (h : s.undisturbed) (hc : s.port.configured = true) (hcheck : wcfgCheck s.cfg i fmt db bl s.wcfgArgs = .ok (f, l))
    (he : exec (.wcfg i.val fmt se db bl pd) s = .next t) : t.env.mem = (s.filled i f l).env.mem := by
  rcases s.clocked_or with hb | hb
  · rw [wcfg_clocked h hb i hc hcheck] at he
    obtain rfl := Host.Outcome.next.inj he
    exact State.writeAll_mem _ _
  · obtain ⟨u, hu, hfault⟩ := wcfg_gated (se := se) (pd := pd) h hb i hc hcheck
    obtain rfl := Host.Outcome.next.inj (he.symm.trans hu)
    exact hfault.mem

/-- A byte after the zero-fill of `n` bytes that do not pass the top of memory (rule R157). -/
theorem Memory.read_zeroed (m : Memory) {base n a : Nat} (hfit : base + n ≤ Config.memorySize)
    (ha : a < Config.memorySize) : (m.zeroed base n).read a = if base ≤ a ∧ a < base + n then 0 else m.read a := by
  split
  case isTrue hin =>
    have hoffset := m.read_zeroed_inside base n (a - base) (by omega)
    rwa [Nat.add_sub_cancel' hin.1] at hoffset
  case isFalse hout =>
    refine m.read_zeroed_outside base n a fun k hk => ?_
    rw [Nat.mod_eq_of_lt ha, Nat.mod_eq_of_lt (by omega)]
    omega

theorem State.read_filled (s : State) (i : Win) (f : Format) (l : Layout)
    (hfit : s.cfg.fbBase[i].toNat + l.length ≤ Config.memorySize) {a : Nat} (ha : a < Config.memorySize) :
    (s.filled i f l).env.mem.read a
      = if s.windows[i].reuses f l.length = false ∧ s.cfg.fbBase[i].toNat ≤ a ∧ a < s.cfg.fbBase[i].toNat + l.length
        then 0 else s.env.mem.read a := by
  unfold State.filled
  cases s.windows[i].reuses f l.length with
  | true => simp
  | false => simpa using s.env.mem.read_zeroed hfit ha

/-- A byte of another configured window's carve-out lies outside a buffer that fits its own (rule R82). -/
theorem platformObligations.outside {c : ConfigBank} {configured : Win → Prop} (h : platformObligations c configured)
    {i j : Win} (hi : configured i) (hj : configured j) (hne : j ≠ i) {a length : Nat} (hcap : length ≤ c.fbCap[i].toNat)
    (hlo : c.fbBase[j].toNat ≤ a) (hhi : a < c.fbBase[j].toNat + c.fbCap[j].toNat) :
    a < Config.memorySize ∧ ¬ (c.fbBase[i].toNat ≤ a ∧ a < c.fbBase[i].toNat + length) := by
  obtain ⟨hinside, hdisjoint⟩ := h
  obtain ⟨-, hend⟩ := hinside j hj
  refine ⟨by omega, fun hin => ?_⟩
  rcases hdisjoint j i hj hi hne with hbelow | habove <;> omega

/-- Settles O25: what is read after WCFG is read after its zero-fill, which lies in the window's own carve-out. -/
theorem wcfgMemory : Obligations.WcfgMemory := by
  refine ⟨Window.reuses_iff, fun s t i fmt se db bl pd f l h hc hcheck he => ?_⟩
  have hmem := wcfg_mem h hc hcheck he
  have hread := fun a (ha : a < Config.memorySize) =>
    (congrArg (Memory.read · a) hmem).trans (s.read_filled i f l (wcfgCheck_ok hcheck).below ha)
  refine ⟨hread, fun configured j a hplatform hi hj hne hlo hhi => ?_⟩
  obtain ⟨ha, hout⟩ := hplatform.outside hi hj hne (wcfgCheck_capacity hcheck) hlo hhi
  rw [hread a ha, if_neg fun hin => hout hin.2]

end Sys2Proof.Machine
end

-- ==== A pan reaches the scan-out at the frame start ====
section
/-! PROOFS. The registers that an undisturbed WPAN leaves, and the active latches that the next frame start loads from them
(rules R166, R169, R170, R289). -/

namespace Sys2Proof.Machine

variable {s t : State} {k : Win}

theorem lastWrite_wpan_end (sh : EngineRegs) (k : Win) (p : PanPlan) :
    lastWrite (wpanList sh k p) (.win k (endReg p.half)) = some (addressWord p.stop) := by
  unfold wpanList
  cases p.half <;> split <;> simp [lastWrite, startReg, endReg]

theorem lastWrite_wpan_alatch (sh : EngineRegs) (k : Win) (p : PanPlan) :
    lastWrite (wpanList sh k p) .alatch = some (sh.alatch ||| oneHot k.val) := by
  unfold wpanList
  split <;> simp [lastWrite]

theorem EngineRegs.selEnd_eq {e : EngineRegs} {half : Bool} (h : e.bufsel k = half) :
    e.selEnd k = e.get (.win k (endReg half)) := by
  unfold EngineRegs.selEnd
  rw [h]
  cases half <;> rfl

theorem Wrote.regs_written {l : List (RegId × Word)} (h : Wrote s l t) {r : RegId} {v : Word}
    (hr : lastWrite l r = some v) : t.engine.regs.get r = v := by
  rw [h.regs, hr]
  rfl

/-- What the address multiplexer and the latch enable of window `k` say in the hardware after WPAN's writes, WINCTL having
been the same in both copies (rules R166, R169). -/
theorem Wrote.wpan_selects {p : PanPlan} (hw : Wrote s (wpanList s.shadow k p) t)
    (hctl : s.shadow.win[k].ctl = s.engine.regs.win[k].ctl) (hhalf : p.half = true → k.val ≤ 1) :
    t.engine.regs.latchOn k = true ∧ t.engine.regs.selStart k = addressWord p.start
      ∧ t.engine.regs.selEnd k = addressWord p.stop := by
  have hsame : t.engine.regs.win[k].ctl = t.shadow.win[k].ctl := by
    have hshadow := hw.shadow (.win k .ctl)
    have hregs := hw.regs (.win k .ctl)
    have hold : s.engine.regs.get (.win k .ctl) = s.shadow.get (.win k .ctl) := hctl.symm
    rw [hold, ← hshadow] at hregs
    exact hregs
  have hsel : t.engine.regs.bufsel k = p.half := by
    obtain ⟨-, hshadow⟩ := hw.wpan_ctl hhalf
    rw [← hshadow]
    unfold EngineRegs.bufsel
    rw [hsame]
  refine ⟨?_, ?_, ?_⟩
  · have halatch : t.engine.regs.alatch = _ := hw.regs_written (lastWrite_wpan_alatch s.shadow k p)
    unfold EngineRegs.latchOn
    rw [halatch]
    exact bit_or_oneHot _ k
  · rw [EngineRegs.selStart_eq hsel]
    exact hw.regs_written (lastWrite_wpan_start s.shadow k p)
  · rw [EngineRegs.selEnd_eq hsel]
    exact hw.regs_written (lastWrite_wpan_end s.shadow k p)

/-- The frame start loads the active latches of a window whose latch is on (rules R170, R260). -/
theorem State.frameStart_actLatches (s : State) (hon : s.engine.regs.latchOn k = true) :
    s.frameStart.engine.actStart[k] = s.engine.regs.selStart k
      ∧ s.frameStart.engine.actEnd[k] = s.engine.regs.selEnd k := by
  simp [State.frameStart, Engine.frameStartLoad, hon]

/-- Settles O28. -/
theorem panReachesScanoutAtFrameStart : Obligations.PanReachesScanoutAtFrameStart := by
  refine ⟨addressWords_hold, fun s t i p h hb hc hctl hhalf hp he => ?_⟩
  rw [wpan_clocked h hb i hc hp] at he
  obtain rfl := Host.Outcome.next.inj he
  have hengine := State.writeAll_engine (s := s) _ (wpanList_quiet s.shadow i p)
  obtain ⟨hon, hstart, hend⟩ := (Wrote.writeAll s (wpanList s.shadow i p)).wpan_selects hctl hhalf
  generalize s.writeAll (wpanList s.shadow i p) = u at hengine hon hstart hend ⊢
  refine ⟨?actStart, ?actEnd, ?frame⟩
  case actStart => rw [State.finish_engine, hengine]
  case actEnd => rw [State.finish_engine, hengine]
  case frame =>
    generalize hv : State.finish _ _ _ = v
    have hsame : v.engine = u.engine := by rw [← hv]; rfl
    obtain ⟨hloadStart, hloadEnd⟩ := v.frameStart_actLatches (k := i) (by rw [hsame]; exact hon)
    rw [hloadStart, hloadEnd, hsame]
    exact ⟨hstart, hend⟩

end Sys2Proof.Machine
end

-- ==== The command word: decoding and encoding ====
section
/-! PROOFS. Each command has one row of the opcode map; a word that selects the row decodes to the command with the
word's fields, and encoding puts the fields back (rules R103, R105, R109). -/

namespace Sys2Proof

open Machine

/-! ### The row of a command (rule R105) -/

/-- The row of the opcode map that a command's mnemonic stands in. -/
@[simp] def Instr.row : Instr → OpcodeRow
  | .timing => ⟨0x01000000, 0xFFFFFFFF⟩
  | .outon => ⟨0x02000000, 0xFFFFFFFF⟩
  | .outoff => ⟨0x03000000, 0xFFFFFFFF⟩
  | .wcfg .. => ⟨0x10000000, 0xFF003FFF⟩
  | .wpan _ => ⟨0x11000000, 0xFF0FFFFF⟩
  | .wen _ => ⟨0x12000000, 0xFF0FFFFF⟩
  | .wdis _ => ⟨0x13000000, 0xFF0FFFFF⟩
  | .pset .. => ⟨0x20000000, 0xFF0FFF00⟩
  | .pflush _ => ⟨0x21000000, 0xFF0FFFFF⟩
  | .vwait _ => ⟨0x30000000, 0xFFFCFFFF⟩
  | .susp => ⟨0x40000000, 0xFFFFFFFF⟩
  | .resm => ⟨0x41000000, 0xFFFFFFFF⟩

/-- One command of each row. -/
def oneOfEachRow : List Instr :=
  [.timing, .outon, .outoff, .wcfg 0 0 false false false false, .wpan 0, .wen 0, .wdis 0, .pset 0 0, .pflush 0,
   .vwait 0, .susp, .resm]

theorem opcodeRows_eq : opcodeRows = oneOfEachRow.map Instr.row := rfl

theorem Instr.row_mem (i : Instr) : i.row ∈ opcodeRows := by
  cases i <;> simp [opcodeRows]

theorem exists_row_eq {r : OpcodeRow} (h : r ∈ opcodeRows) : ∃ i : Instr, i.row = r := by
  rw [opcodeRows_eq, List.mem_map] at h
  obtain ⟨i, -, hi⟩ := h
  exact ⟨i, hi⟩

/-! ### What selecting a row says of the fields -/

/-- A field that lies under the row's mask holds what the row's pattern has there. -/
theorem Machine.OpcodeRow.selects.field {r : OpcodeRow} {w : Word} (h : r.selects w) {start len : Nat} {v : BitVec len}
    (hmask : r.mask.extractLsb' start len = BitVec.allOnes len) (hpattern : r.pattern.extractLsb' start len = v) :
    v = w.extractLsb' start len := by
  rw [← hpattern, ← show w &&& r.mask = r.pattern from h, BitVec.extractLsb'_and, hmask, BitVec.and_allOnes]

theorem opcodeRow_mask_opc : ∀ r ∈ opcodeRows, r.mask.extractLsb' 24 8 = BitVec.allOnes 8 := by decide

theorem opcodeRow_eq_of_opc : ∀ r ∈ opcodeRows, ∀ q ∈ opcodeRows,
    r.pattern.extractLsb' 24 8 = q.pattern.extractLsb' 24 8 → r = q := by decide

/-- No word selects two rows: every mask covers OPC, and no two rows share an OPC value (rule R109). -/
theorem opcodeRow_unique {r q : OpcodeRow} (hr : r ∈ opcodeRows) (hq : q ∈ opcodeRows) {w : Word} (h : r.selects w)
    (h' : q.selects w) : r = q :=
  opcodeRow_eq_of_opc r hr q hq
    ((h.field (opcodeRow_mask_opc r hr) rfl).trans (h'.field (opcodeRow_mask_opc q hq) rfl).symm)

theorem opcField_of_selects {i : Instr} {w : Word} (h : i.row.selects w) :
    opcField w = (i.row.pattern.extractLsb' 24 8).toNat :=
  congrArg BitVec.toNat (h.field (opcodeRow_mask_opc _ i.row_mem) rfl).symm

/-! ### What the decoder answers -/

/-- The command of the same mnemonic whose fields are those of the word `w` (rule R103). -/
def Instr.refill (i : Instr) (w : Word) : Instr :=
  match i with
  | .wcfg .. =>
      .wcfg (winField w) (fmtField w) (w.getLsbD 17) (w.getLsbD 16) (w.getLsbD 15) (w.getLsbD 14)
  | .wpan _ => .wpan (winField w)
  | .wen _ => .wen (winField w)
  | .wdis _ => .wdis (winField w)
  | .pset .. => .pset (winField w) (idxField w)
  | .pflush _ => .pflush (winField w)
  | .vwait _ => .vwait (slotField w)
  | i => i

/-- A word that selects a command's row decodes to that mnemonic with the word's fields (rules R105, R109). -/
theorem decodeWord_of_selects {i : Instr} {w : Word} (h : i.row.selects w) :
    decodeWord w = .ok (i.refill w) := by
  have hopc := opcField_of_selects h
  unfold decodeWord
  rw [hopc]
  cases i <;> simp only [Instr.row] <;> exact if_pos h

theorem whenMatches_eq_ok_iff {w mask pattern : Word} {i j : Instr} :
    whenMatches w mask pattern j = .ok i ↔ w &&& mask = pattern ∧ j = i := by
  unfold whenMatches
  split <;> simp [*]

/-- The decoder's answer, read backwards: the row is selected and the fields are the word's (rules R105, R109). -/
theorem selects_of_decodeWord {i : Instr} {w : Word} (h : decodeWord w = .ok i) :
    i.row.selects w ∧ i.refill w = i := by
  unfold decodeWord at h
  split at h
  case h_13 => cases h
  all_goals
    obtain ⟨hselects, rfl⟩ := whenMatches_eq_ok_iff.mp h
    exact ⟨hselects, rfl⟩

/-! ### Encoding -/

theorem wellFormed_refill (w : Word) (i : Instr) : (i.refill w).wellFormed = true := by
  have hwin : winFits (winField w) = true := decide_eq_true (w.extractLsb' 20 4).isLt
  have hidx : idxFits (idxField w) = true := decide_eq_true (w.extractLsb' 0 8).isLt
  have hslot : slotFits (slotField w) = true := decide_eq_true (w.extractLsb' 16 2).isLt
  cases i <;> simp [Instr.refill, Instr.wellFormed, hwin, hidx, hslot]

theorem assemble_of_fields {opc win : Nat} {low : BitVec 20} {w : Word} (hopc : BitVec.ofNat 8 opc = w.extractLsb' 24 8)
    (hwin : BitVec.ofNat 4 win = w.extractLsb' 20 4) (hlow : low = w.extractLsb' 0 20) : assemble opc win low = w := by
  unfold assemble
  rw [hopc, hwin, hlow, BitVec.extractLsb'_append_extractLsb'_eq_extractLsb' (by rfl),
    BitVec.extractLsb'_append_extractLsb'_eq_extractLsb' (by rfl), BitVec.extractLsb'_eq_self]

theorem ofBool_getLsbD (w : Word) (n : Nat) : BitVec.ofBool (w.getLsbD n) = w.extractLsb' n 1 := by
  rw [BitVec.getLsbD_eq_extractLsb']
  generalize w.extractLsb' n 1 = b
  revert b
  decide

/-- Encoding the command that a word decodes to gives the word back: the fields and the bits that the row fixes are
all its bits (rule R103). -/
theorem encode_refill {i : Instr} {w : Word} (h : i.row.selects w) : encode (i.refill w) = w := by
  have hback {n : Nat} (b : BitVec n) : BitVec.ofNat n b.toNat = b := by rw [BitVec.ofNat_toNat, BitVec.setWidth_eq]
  have hwin : BitVec.ofNat 4 (winField w) = w.extractLsb' 20 4 := hback _
  have hidx : BitVec.ofNat 8 (idxField w) = w.extractLsb' 0 8 := hback _
  have hslot : BitVec.ofNat 2 (slotField w) = w.extractLsb' 16 2 := hback _
  have hopc := h.field (opcodeRow_mask_opc _ i.row_mem) rfl
  cases i <;> simp only [Instr.row] at h hopc
  case timing | outon | outoff | susp | resm =>
    exact assemble_of_fields hopc (h.field rfl rfl) (h.field rfl rfl)
  case wpan | wen | wdis | pflush => exact assemble_of_fields hopc hwin (h.field rfl rfl)
  case wcfg =>
    have hlow : (0 : BitVec 14) = w.extractLsb' 0 14 := h.field rfl rfl
    refine assemble_of_fields hopc hwin ?_
    simp only [fmtField, ofBool_getLsbD, hlow, BitVec.extractLsb'_append_extractLsb'_eq_extractLsb']
  case pset =>
    have hmiddle : (0 : BitVec 12) = w.extractLsb' 8 12 := h.field rfl rfl
    refine assemble_of_fields hopc hwin ?_
    simp only [hidx, hmiddle, BitVec.extractLsb'_append_extractLsb'_eq_extractLsb']
  case vwait =>
    have hhigh : (0 : BitVec 2) = w.extractLsb' 18 2 := h.field rfl rfl
    have hlow : (0 : BitVec 16) = w.extractLsb' 0 16 := h.field rfl rfl
    refine assemble_of_fields hopc (h.field rfl rfl) ?_
    simp only [hslot, hhigh, hlow, BitVec.extractLsb'_append_extractLsb'_eq_extractLsb']

/-! ### The fields of an encoded word -/

theorem winField_assemble (opc win : Nat) (low : BitVec 20) : winField (assemble opc win low) = win % 16 := by
  unfold winField assemble
  rw [BitVec.extractLsb'_append_eq_of_le (by decide), BitVec.extractLsb'_append_eq_of_add_le (by decide),
    BitVec.extractLsb'_eq_self, BitVec.toNat_ofNat]

theorem extractLsb'_assemble {start len : Nat} (h : start + len ≤ 20) (opc win : Nat) (low : BitVec 20) :
    (assemble opc win low).extractLsb' start len = low.extractLsb' start len := by
  unfold assemble
  exact BitVec.extractLsb'_append_eq_of_add_le h

theorem getLsbD_assemble {n : Nat} (h : n < 20) (opc win : Nat) (low : BitVec 20) :
    (assemble opc win low).getLsbD n = low.getLsbD n := by
  unfold assemble
  rw [BitVec.getLsbD_append, if_pos h]

/-- The bits of a word under a mask that covers OPC, field by field. -/
theorem assemble_and_mask (opc win : Nat) (low maskLow : BitVec 20) (maskWin : BitVec 4) :
    assemble opc win low &&& (BitVec.allOnes 8 ++ maskWin ++ maskLow)
      = BitVec.ofNat 8 opc ++ (BitVec.ofNat 4 win &&& maskWin) ++ (low &&& maskLow) := by
  unfold assemble
  rw [BitVec.and_append, BitVec.and_append, BitVec.and_allOnes]

/-- A word whose WIN and low fields are what the row fixes of them selects the row. -/
theorem selects_assemble {r : OpcodeRow} {opc win : Nat} {low fixedLow maskLow : BitVec 20}
    {fixedWin maskWin : BitVec 4} (hmask : r.mask = BitVec.allOnes 8 ++ maskWin ++ maskLow)
    (hpattern : BitVec.ofNat 8 opc ++ fixedWin ++ fixedLow = r.pattern)
    (hwin : BitVec.ofNat 4 win &&& maskWin = fixedWin) (hlow : low &&& maskLow = fixedLow) :
    r.selects (assemble opc win low) := by
  show assemble opc win low &&& r.mask = r.pattern
  rw [hmask, assemble_and_mask, hwin, hlow, hpattern]

/-- The word of a command, well-formed or not, selects the command's row: the bits that the row fixes are never a
field's (rules R103, R105). -/
theorem selects_encode (i : Instr) : i.row.selects (encode i) := by
  have hfree (b : BitVec 4) : b &&& 0#4 = 0#4 := BitVec.and_zero
  cases i with
  | timing | outon | outoff | susp | resm =>
    exact selects_assemble (maskWin := BitVec.allOnes 4) (maskLow := BitVec.allOnes 20) rfl rfl rfl rfl
  | wpan | wen | wdis | pflush =>
    exact selects_assemble (maskLow := BitVec.allOnes 20) rfl rfl (hfree _) rfl
  | wcfg win fmt se db bl pd =>
    have hlow : (fmt ++ BitVec.ofBool se ++ BitVec.ofBool db ++ BitVec.ofBool bl ++ BitVec.ofBool pd ++ 0#14)
        &&& (0#6 ++ BitVec.allOnes 14) = 0 := by
      rw [BitVec.and_append, BitVec.and_zero, BitVec.and_allOnes]
      rfl
    exact selects_assemble rfl rfl (hfree _) hlow
  | pset win idx =>
    have hlow : (0#12 ++ BitVec.ofNat 8 idx) &&& (BitVec.allOnes 12 ++ 0#8) = 0 := by
      rw [BitVec.and_append, BitVec.and_zero, BitVec.and_allOnes]
      rfl
    exact selects_assemble rfl rfl (hfree _) hlow
  | vwait slot =>
    have hlow : (0#2 ++ BitVec.ofNat 2 slot ++ 0#16)
        &&& (BitVec.allOnes 2 ++ 0#2 ++ BitVec.allOnes 16) = 0 := by
      rw [BitVec.and_append, BitVec.and_append, BitVec.and_zero, BitVec.and_allOnes, BitVec.and_allOnes]
      rfl
    exact selects_assemble (maskWin := BitVec.allOnes 4) rfl rfl rfl hlow

/-- The fields that WCFG packs below WIN. -/
theorem wcfgFields_encode (win : Nat) (fmt : BitVec 2) (se db bl pd : Bool) {w : Word}
    (hw : encode (.wcfg win fmt se db bl pd) = w) :
    fmtField w = fmt ∧ w.getLsbD 17 = se ∧ w.getLsbD 16 = db ∧ w.getLsbD 15 = bl ∧ w.getLsbD 14 = pd := by
  subst hw
  unfold encode fmtField
  rw [extractLsb'_assemble (by decide), getLsbD_assemble (by decide), getLsbD_assemble (by decide),
    getLsbD_assemble (by decide), getLsbD_assemble (by decide)]
  refine ⟨?fmt, ?_, ?_, ?_, ?_⟩
  case fmt =>
    repeat rw [BitVec.extractLsb'_append_eq_of_le (by decide)]
    exact BitVec.extractLsb'_eq_self
  all_goals
    repeat rw [BitVec.getLsbD_append]
    simp

theorem idxField_encode (win idx : Nat) : idxField (encode (.pset win idx)) = idx % 256 := by
  unfold encode idxField
  rw [extractLsb'_assemble (by decide), BitVec.extractLsb'_append_eq_of_add_le (by decide), BitVec.extractLsb'_eq_self,
    BitVec.toNat_ofNat]

theorem slotField_encode (slot : Nat) : slotField (encode (.vwait slot)) = slot % 4 := by
  unfold encode slotField
  rw [extractLsb'_assemble (by decide), BitVec.extractLsb'_append_eq_of_le (by decide),
    BitVec.extractLsb'_append_eq_of_add_le (by decide), BitVec.extractLsb'_eq_self, BitVec.toNat_ofNat]

/-- The fields of a well-formed command's word are the command's (rule R103). -/
theorem refill_encode {i : Instr} (h : i.wellFormed = true) : i.refill (encode i) = i := by
  have hfits {win : Nat} (hwin : winFits win = true) (opc : Nat) (low : BitVec 20) :
      winField (assemble opc win low) = win := by
    rw [winField_assemble, Nat.mod_eq_of_lt (of_decide_eq_true hwin)]
  cases i with
  | timing | outon | outoff | susp | resm => rfl
  | wpan win | wen win | wdis win | pflush win => exact congrArg _ (hfits h _ _)
  | wcfg win fmt se db bl pd =>
    obtain ⟨hfmt, hse, hdb, hbl, hpd⟩ := wcfgFields_encode win fmt se db bl pd rfl
    have hwin : winField (encode (.wcfg win fmt se db bl pd)) = win := hfits h _ _
    rw [Instr.refill, hwin, hfmt, hse, hdb, hbl, hpd]
  | pset win idx =>
    obtain ⟨hw, hi⟩ := Bool.and_eq_true_iff.mp h
    have hwin : winField (encode (.pset win idx)) = win := hfits hw _ _
    rw [Instr.refill, hwin, idxField_encode, Nat.mod_eq_of_lt (of_decide_eq_true hi)]
  | vwait slot => rw [Instr.refill, slotField_encode, Nat.mod_eq_of_lt (of_decide_eq_true h)]

/-! ### The two round trips -/

/-- Settles O1: the word selects the command's row, and its fields are the command's. -/
theorem decodeOfEncode : Obligations.DecodeOfEncode := by
  intro i h
  calc decodeWord (encode i) = .ok (i.refill (encode i)) := decodeWord_of_selects (selects_encode i)
    _ = .ok i := by rw [refill_encode h]

/-- Settles O2: the word selects the row of the command it decodes to, and the command's fields are the word's. -/
theorem encodeOfDecode : Obligations.EncodeOfDecode := by
  intro w i h
  obtain ⟨hselects, hrefill⟩ := selects_of_decodeWord h
  constructor
  · calc encode i = encode (i.refill w) := by rw [hrefill]
      _ = w := encode_refill hselects
  · rw [← hrefill]
    exact wellFormed_refill w i

/-! ### Which words decode (rule R109) -/

theorem decodes_iff_selects (w : Word) : (∃ i, decodeWord w = .ok i) ↔ ∃ r ∈ opcodeRows, r.selects w := by
  constructor
  · rintro ⟨i, h⟩
    exact ⟨i.row, i.row_mem, (selects_of_decodeWord h).1⟩
  · rintro ⟨r, hr, h⟩
    obtain ⟨i, rfl⟩ := exists_row_eq hr
    exact ⟨_, decodeWord_of_selects h⟩

theorem startCommand_of_error {s : State} {e : DecodeError} (h : decodeWord s.port.cmd = .error e) :
    startCommand s = .next (s.finish .illegalCommand 0) := by
  simp [startCommand, h, reject]

/-- Settles O3. -/
theorem illegalWords : Obligations.IllegalWords := by
  refine ⟨decodes_iff_selects, fun w r hr q hq => opcodeRow_unique hr hq, fun s e hcsq h he => ?_, rfl⟩
  have hw : s.commandWaits = true := s.commandWaits_iff.mpr ⟨hcsq, h.free⟩
  obtain ⟨-, -, hschedule⟩ := h
  calc step s = startCommand s := step_of_commandWaits hw hschedule
    _ = .next (s.finish .illegalCommand 0) := startCommand_of_error he

/-- Settles O4. -/
theorem specWordsDecode : Obligations.SpecWordsDecode := by
  refine ⟨?_, ?_, ?_, ?_, ?_, ?_, ?_, ?_, ?_, ?_, ?_, ?_, ?_⟩ <;> rfl

end Sys2Proof
end

-- ==== The doorbell ====
section
/-! PROOFS. A host write of CMD (rule R101). -/

namespace Sys2Proof.Machine

/-- A host write at CMD's offset is the doorbell, the fault bit set or not (rules R79, R256). -/
theorem State.hostWrite_cmd (s : State) (w : Word) : s.hostWrite .word 0x000 w = .next (s.doorbell w) :=
  State.hostWrite_control (by decide) (by decide) rfl

theorem State.doorbell_accepted {s : State} (hb : s.busy = false) (hf : s.faulted = false) (w : Word) :
    s.doorbell w = s.acceptCommand w := by
  simp [State.doorbell, hb, hf]

theorem State.doorbell_dropped {s : State} (h : s.busy = true ∨ s.faulted = true) (w : Word) :
    s.doorbell w = { s with port := { s.port with overrun := true } } := by
  simp [State.doorbell, h]

/-- Settles O7. -/
theorem doorbellWrite : Obligations.DoorbellWrite := by
  refine fun s w => ⟨fun hb hf => ⟨s.acceptCommand w, ?_, rfl, rfl⟩, fun h => ?_⟩
  · rw [s.hostWrite_cmd, State.doorbell_accepted hb hf]
  · rw [s.hostWrite_cmd, State.doorbell_dropped h]

end Sys2Proof.Machine
end

-- ==== WCFG's operands and checks ====
section
/-! PROOFS. WCFG's operands as numbers, its checks in their order, and the layout past them (rules R107, R151 to
R154). -/

namespace Sys2Proof.Machine

/-! ### The format code (rules R103, R151) -/

theorem formatOf_eq_none_iff {fmt : BitVec 2} : formatOf fmt = none ↔ fmt = 3 := by
  revert fmt
  decide

theorem formatOf_eq_some_iff {fmt : BitVec 2} {f : Format} : formatOf fmt = some f ↔ fmt.toNat = f.code := by
  revert fmt
  cases f <;> decide

/-- The bytes per pixel, read off the format code. -/
theorem bpp_of_formatOf {fmt : BitVec 2} {f : Format} (h : formatOf fmt = some f) :
    (if fmt = 0 then 1 else if fmt = 1 then 2 else 4) = f.bpp := by
  revert fmt
  cases f <;> decide

theorem eq_indexed8_iff {fmt : BitVec 2} {f : Format} (h : formatOf fmt = some f) : f = .indexed8 ↔ fmt = 0 := by
  revert fmt
  cases f <;> decide

/-! ### The order of the checks (rule R154) -/

/-- The geometry checks c6 to c11 of rule R154, as numbers. -/
theorem geometryFits_iff {c : ConfigBank} {i : Win} {db : Bool} {a : WcfgArgs} {l : Layout} :
    geometryFits c i db a l = true ↔
      ¬ ((a.width < 1 ∨ a.height < 1) ∨ (c.xres < a.x + a.width ∨ c.yres < a.y + a.height)
        ∨ (a.vwidth < a.width ∨ a.vheight < a.height) ∨ 65535 < l.lineStride
        ∨ (c.fbCap[i].toNat < l.length ∨ 4294967296 < c.fbBase[i].toNat + l.length)
        ∨ db = true ∧ l.half < l.visible) := by
  cases db <;> simp [geometryFits, Config.memorySize, not_or] <;> omega

/-- What a check refused with; nothing when it passed. -/
def refusalOf {α : Type} : Except Result α → Option Result
  | .error e => some e
  | .ok _ => none

theorem refusalOf_guard {α : Type} (p : Prop) [Decidable p] (e : Result) (next : Except Result α) :
    refusalOf (if p then .error e else next) = if p then some e else refusalOf next :=
  apply_ite refusalOf p _ _

/-- For a window below NWIN, the first failing check of the numbers is the code that WCFG's own checks refuse with. -/
theorem wcfgFirstError_eq (c : ConfigBank) (i : Win) (fmt : BitVec 2) (db bl : Bool) (a : WcfgArgs) :
    wcfgFirstError c i.val fmt db bl a c.fbCap[i].toNat c.fbBase[i].toNat = refusalOf (wcfgCheck c i fmt db bl a) := by
  have hwin : ¬ 5 ≤ i.val := Nat.not_le.mpr i.isLt
  unfold wcfgFirstError wcfgCheck
  cases hf : formatOf fmt with
  | none =>
    have hfmt : fmt = 3 := formatOf_eq_none_iff.mp hf
    simp only [if_neg hwin, if_pos hfmt, refusalOf_guard, Bool.and_eq_true, decide_eq_true_eq]
    rfl
  | some f =>
    have hfmt : ¬ fmt = 3 := fun h => by simp [formatOf_eq_none_iff.mpr h] at hf
    simp only [if_neg hwin, if_neg hfmt, bpp_of_formatOf hf]
    -- c6 to c11 report the same code, so their chain folds into the one condition of `geometryFits`.
    simp only [← eq_indexed8_iff hf, refusalOf_guard, Bool.and_eq_true, decide_eq_true_eq, geometryFits_iff, ite_not,
      ← ite_or]
    rfl

/-! ### The layout past the checks (rules R151 to R153) -/

theorem roundToPage_mod (n : Nat) : roundToPage n % 4096 = 0 := Nat.mul_mod_left _ _

theorem roundToPage_lt (n : Nat) : roundToPage n < n + 4096 := by
  unfold roundToPage Config.page
  omega

theorem roundToPage_half (n : Nat) : roundToPage n / 2 * 2 = roundToPage n := by
  have := roundToPage_mod n
  omega

theorem wcfgCheck_format {c : ConfigBank} {i : Win} {fmt : BitVec 2} {db bl : Bool} {a : WcfgArgs} {f : Format}
    {l : Layout} (h : wcfgCheck c i fmt db bl a = .ok (f, l)) : formatOf fmt = some f := by
  unfold wcfgCheck at h
  (repeat' split at h) <;> cases h
  assumption

theorem State.wcfgArgs_eq (s : State) : s.wcfgArgs =
    { x := s.port.latch[0].toNat / 65536 % 8192, y := s.port.latch[0].toNat % 8192
      width := s.port.latch[1].toNat / 65536 % 8192, height := s.port.latch[1].toNat % 8192
      vwidth := s.port.latch[2].toNat / 65536 % 16384, vheight := s.port.latch[2].toNat % 16384
      alpha := BitVec.ofNat 8 (s.port.latch[3].toNat / 16777216)
      keyR := BitVec.ofNat 8 (s.port.latch[3].toNat / 65536)
      keyG := BitVec.ofNat 8 (s.port.latch[3].toNat / 256)
      keyB := BitVec.ofNat 8 s.port.latch[3].toNat } := by
  simp [State.wcfgArgs, State.x, bits_eq, byteAt, Nat.shiftRight_eq_div_pow]

/-- A configured block answers WCFG's first failing check with its code and changes nothing else (rule R154). -/
theorem wcfg_refused {s : State} (hc : s.port.configured = true) (i : Win) {fmt : BitVec 2} {se db bl pd : Bool}
    {e : Result} (h : wcfgCheck s.cfg i fmt db bl s.wcfgArgs = .error e) :
    exec (.wcfg i.val fmt se db bl pd) s = .next (s.finish e 0) := by
  rw [exec_wcfg, execWcfg, if_pos hc, onWindow_valid, h]
  rfl

/-- Settles O22. -/
theorem wcfgChecks : Obligations.WcfgChecks := by
  refine ⟨State.wcfgArgs_eq, ⟨rfl, rfl, rfl⟩,
    fun s win fmt se db bl pd => ⟨fun hc => ?notReady, fun hc hwin => ?window, ?_⟩⟩
  case notReady =>
    rw [exec_wcfg, execWcfg, if_neg (by simp [hc])]
    rfl
  case window => rw [exec_wcfg, execWcfg, if_pos hc, onWindow_invalid hwin]
  rintro i rfl
  rw [wcfgFirstError_eq]
  cases hcheck : wcfgCheck s.cfg i fmt db bl s.wcfgArgs with
  | error e' =>
    refine ⟨fun e hc he => ?_, fun hnone => (nomatch hnone)⟩
    obtain rfl := Option.some.inj he
    exact wcfg_refused hc i hcheck
  | ok p =>
    obtain ⟨f, l⟩ := p
    refine ⟨fun e _ he => (nomatch he), fun _ => ⟨f, l, rfl, ?_, ?_⟩⟩
    · rw [formatOf_eq_some_iff.mp (wcfgCheck_format hcheck)]
      cases f <;> rfl
    · rw [(wcfgCheck_ok hcheck).layout]
      exact ⟨rfl, rfl, roundToPage_mod _, le_roundToPage _, roundToPage_lt _, rfl, roundToPage_half _⟩

end Sys2Proof.Machine
end

-- ==== The timing calculator ====
section
/-! PROOFS. The timing calculator as numbers: its inputs, when it succeeds, its divider and its register images (rules
R131 to R139). -/

namespace Sys2Proof.Machine

/-! ### When it succeeds (rules R133 to R135, R138) -/

theorem porchFits_iff {n : Nat} : porchFits n = true ↔ 1 ≤ n ∧ n ≤ 256 := by
  simp [porchFits]

theorem resolutionFits_iff {n : Nat} : resolutionFits n = true ↔ 1 ≤ n ∧ n ≤ 4096 := by
  simp [resolutionFits]

theorem ConfigBank.fieldsFit_iff {c : ConfigBank} : c.fieldsFit = true ↔
    (∀ n ∈ [c.hfp, c.hsw, c.hbp, c.vfp, c.vsw, c.vbp], 1 ≤ n ∧ n ≤ 256)
      ∧ (1 ≤ c.xres ∧ c.xres ≤ 4096) ∧ (1 ≤ c.yres ∧ c.yres ≤ 4096) := by
  simp only [ConfigBank.fieldsFit, Bool.and_eq_true, porchFits_iff, resolutionFits_iff, List.forall_mem_cons,
    List.not_mem_nil, IsEmpty.forall_iff, implies_true, true_and, and_assoc]

/-- The divider is the floor of the quotient, or one less when the tenths are 5 or more (rule R133). -/
theorem divider_eq_natCast_iff {src target d : Nat} : divider src target = (d : Int) ↔
    (tenths src target ≤ 4 ∧ src / target = d) ∨ (5 ≤ tenths src target ∧ src / target = d + 1) := by
  unfold divider
  split <;> omega

theorem ConfigBank.timingCalc_eq_some_iff {c : ConfigBank} {t : TimingImage} : c.timingCalc = some t ↔
    c.fieldsFit = true ∧ c.target ≠ 0
      ∧ ∃ d : Nat, divider c.srcclk.toNat c.target = (d : Int) ∧ 1 ≤ d ∧ d ≤ 256 ∧ t = c.images d := by
  unfold ConfigBank.timingCalc
  rw [Option.ite_none_right_eq_some, Option.ite_none_right_eq_some, Bool.and_eq_true, decide_eq_true_eq, and_assoc]
  refine and_congr_right fun _ => and_congr_right fun _ => ?_
  generalize divider c.srcclk.toNat c.target = q
  constructor
  · rintro ⟨⟨hlo, hhi⟩, himage⟩
    exact ⟨q.toNat, by omega, by omega, by omega, (Option.some.inj himage).symm⟩
  · rintro ⟨d, rfl, hlo, hhi, rfl⟩
    exact ⟨by omega, by rw [Int.toNat_natCast]⟩

/-! ### The inputs as numbers (rules R26, R131) -/

theorem ConfigBank.inputs_eq (c : ConfigBank) : (c.xres = c.res.toNat % 8192 ∧ c.yres = c.res.toNat / 65536 % 8192)
    ∧ (c.hfp = c.htim.toNat % 1024 ∧ c.hsw = c.htim.toNat / 1024 % 1024 ∧ c.hbp = c.htim.toNat / 1048576 % 1024)
    ∧ (c.vfp = c.vtim.toNat % 1024 ∧ c.vsw = c.vtim.toNat / 1024 % 1024 ∧ c.vbp = c.vtim.toNat / 1048576 % 1024)
    ∧ c.refreshHz = c.refresh.toNat % 65536 ∧ c.pol = c.misc.toNat % 16
    ∧ c.ditherSpec = c.misc.toNat / 256 % 256 := by
  simp [ConfigBank.xres, ConfigBank.yres, ConfigBank.hfp, ConfigBank.hsw, ConfigBank.hbp, ConfigBank.vfp,
    ConfigBank.vsw, ConfigBank.vbp, ConfigBank.refreshHz, ConfigBank.pol, ConfigBank.ditherSpec, bits_eq]

/-- Settles O15: a divider in range comes from one of the two kinds of tenths (`divider_eq_natCast_iff`). -/
theorem timingCalculator : Obligations.TimingCalculator := by
  refine ⟨ConfigBank.inputs_eq, fun c t => ?_⟩
  rw [ConfigBank.timingCalc_eq_some_iff, ConfigBank.fieldsFit_iff, and_assoc, and_assoc]
  refine and_congr_right fun _ => and_congr_right fun _ => and_congr_right fun _ => ?_
  constructor
  · rintro ⟨htarget, d, hd, hlo, hhi, rfl⟩
    refine ⟨c.target, c.srcclk.toNat / c.target, rfl, htarget, rfl, ?_⟩
    rcases divider_eq_natCast_iff.mp hd with ⟨htenths, hfloor⟩ | ⟨htenths, hfloor⟩
    · rw [hfloor]
      exact .inl ⟨htenths, hlo, hhi, rfl, rfl⟩
    · rw [hfloor]
      exact .inr ⟨htenths, by omega, by omega, rfl, rfl⟩
  · rintro ⟨_, _, rfl, htarget, rfl, ⟨htenths, hlo, hhi, rfl, -⟩ | ⟨htenths, hlo, hhi, rfl, -⟩⟩
    · exact ⟨htarget, _, divider_eq_natCast_iff.mpr (.inl ⟨htenths, rfl⟩), hlo, hhi, rfl⟩
    · have hfloor := (Nat.sub_add_cancel (Nat.le_of_succ_le hlo)).symm
      exact ⟨htarget, _, divider_eq_natCast_iff.mpr (.inr ⟨htenths, hfloor⟩), by omega, by omega, rfl⟩

/-! ### The register images (rule R136) -/

/-- TIMV and TIMH: three fields of eight bits. -/
theorem toNat_threeFields {high mid low : Nat} (hh : high < 256) (hm : mid < 256) (hl : low < 256) :
    ((word high <<< 16) ||| (word mid <<< 8) ||| word low).toNat = high * 65536 + mid * 256 + low := by
  have hsum := toNat_or_field 16
    (toNat_or_field 8 (word_toNat (n := low) (by omega)) (word_toNat (n := mid) (by omega)) (by omega) (by omega))
    (word_toNat (n := high) (by omega)) (by omega) (by omega)
  rw [BitVec.or_comm, BitVec.or_comm (word high <<< 16), ← BitVec.or_assoc, hsum]
  omega

/-- TIMSIZE: two fields of at most sixteen bits. -/
theorem toNat_twoFields {high low : Nat} (hh : high < 65536) (hl : low < 65536) :
    ((word high <<< 16) ||| word low).toNat = high * 65536 + low := by
  rw [BitVec.or_comm,
    toNat_or_field 16 (word_toNat (n := low) (by omega)) (word_toNat (n := high) (by omega)) hl (by omega)]
  omega

/-- Settles O16: the checks keep each field within its place. -/
theorem timingImages : Obligations.TimingImages := by
  intro c t h
  obtain ⟨hfits, -, d, -, hlo, hhi, rfl⟩ := ConfigBank.timingCalc_eq_some_iff.mp h
  obtain ⟨hporches, hx, hy⟩ := ConfigBank.fieldsFit_iff.mp hfits
  simp only [List.forall_mem_cons] at hporches
  obtain ⟨hhfp, hhsw, hhbp, hvfp, hvsw, hvbp, -⟩ := hporches
  obtain ⟨-, -, -, -, hpol, hdither⟩ := c.inputs_eq
  refine ⟨Nat.sub_add_cancel hlo, by show d - 1 < 256; omega, ?timv, ?timh, ?timsize, ?timpol, ?dither⟩
  case timv => exact toNat_threeFields (by omega) (by omega) (by omega)
  case timh => exact toNat_threeFields (by omega) (by omega) (by omega)
  case timsize => exact toNat_twoFields (by omega) (by omega)
  case timpol => exact word_toNat (by omega)
  case dither => exact word_toNat (by omega)

/-- Settles O17: the source's panel passes the checks with divider 1. -/
theorem timingWorkedExample : Obligations.TimingWorkedExample := by
  intro c hsrc hxres hyres hhfp hhsw hhbp hvfp hvsw hvbp hrefresh
  have hh : c.hTotal = 350 := by rw [ConfigBank.hTotal, hhfp, hhsw, hhbp, hxres]
  have hv : c.vTotal = 493 := by rw [ConfigBank.vTotal, hvfp, hvsw, hvbp, hyres]
  have htarget : c.target = 10353000 := by rw [ConfigBank.target, hrefresh, hh, hv]
  have htenths : tenths c.srcclk.toNat c.target = 1 := by rw [hsrc, htarget]; rfl
  have hdiv : divider c.srcclk.toNat c.target = ((1 : Nat) : Int) := by rw [hsrc, htarget]; rfl
  have hfits : c.fieldsFit = true := by
    rw [ConfigBank.fieldsFit, hhfp, hhsw, hhbp, hvfp, hvsw, hvbp, hxres, hyres]
    rfl
  refine ⟨hh, hv, htarget, htenths, c.images 1,
    ConfigBank.timingCalc_eq_some_iff.mpr ⟨hfits, by simp [htarget], 1, hdiv, by omega, by omega, rfl⟩, rfl, rfl, ?_⟩
  simp only [ConfigBank.images, hhfp, hhsw, hhbp, hvfp, hvsw, hvbp, hxres, hyres]
  exact ⟨rfl, rfl, rfl⟩

end Sys2Proof.Machine
end

-- ==== TIMING, OUTON and OUTOFF in full ====
section
/-! PROOFS. The two refusals of TIMING and the one of OUTON; what the writes of OUTON and OUTOFF do to the output (rules
R140 to R143). -/

namespace Sys2Proof.Machine

variable {s : State}

/-! ### The refusals (rule R111) -/

theorem timing_configured (hc : s.port.configured = true) : exec .timing s = .next (s.finish .illegalCommand 0) := by
  rw [exec_timing, execTiming, if_pos hc]
  rfl

theorem timing_invalid (hc : s.port.configured = false) (ht : s.cfg.timingCalc = none) :
    exec .timing s = .next (s.finish .invalidTiming 0) := by
  rw [exec_timing, execTiming, hc, ht]
  rfl

theorem outon_unconfigured (hc : s.port.configured = false) : exec .outon s = .next (s.finish .notReady 0) := by
  rw [exec_outon, execOuton, hc]
  rfl

/-- Settles O19. -/
theorem timingCommand : Obligations.TimingCommand := fun _ =>
  ⟨timing_configured, timing_invalid, fun _ hc ht h =>
    ⟨fun hb => timing_clocked h hb hc ht, fun hb => timing_gated h hb hc ht⟩⟩

/-! ### The writes of CTRL (rules R142, R143) -/

/-- OUTON's two writes: the first leaves OUT_EN alone, the second sets it. -/
theorem State.writeAll_outon (s : State) (v : Word) (hv : bit v 0 = true) :
    s.writeAll [(.inten, 0x00000001), (.ctrl, v)] =
      { s with
        shadow := { s.shadow with inten := 0x00000001, ctrl := v }
        hwwrcnt := s.hwwrcnt + 2
        engine :=
          if bit s.engine.regs.ctrl 0 then
            { s.engine with regs := { s.engine.regs with inten := 0x00000001, ctrl := v } }
          else Engine.frameStartLoad
            { s.engine with regs := { s.engine.regs with inten := 0x00000001, ctrl := v } } } := by
  have hengine : (s.writeAll [(.inten, 0x00000001), (.ctrl, v)]).engine
      = (s.engine.writeReg .inten 0x00000001).writeReg .ctrl v := rfl
  rw [Engine.writeReg_ctrl_on _ hv, s.engine.writeReg_ne_ctrl (r := .inten) (by decide)] at hengine
  rw [State.writeAll_eq, State.writeAll_hwwrcnt, hengine]
  rfl

/-- OUTOFF's write clears OUT_EN. -/
theorem State.writeAll_outoff (s : State) (v : Word) (hv : bit v 0 = false) :
    s.writeAll [(.ctrl, v)] =
      { s with
        shadow := { s.shadow with ctrl := v }
        hwwrcnt := s.hwwrcnt + 1
        engine :=
          { s.engine with
            regs := { s.engine.regs with ctrl := v }
            cur := if bit s.engine.regs.ctrl 0 then .idle else s.engine.cur
            intpend := if bit s.engine.regs.ctrl 0 then false else s.engine.intpend } } := by
  have hengine : (s.writeAll [(.ctrl, v)]).engine = s.engine.writeReg .ctrl v := rfl
  rw [Engine.writeReg_ctrl_off _ hv] at hengine
  rw [State.writeAll_eq, State.writeAll_hwwrcnt, hengine]
  rfl

/-- Settles O20. -/
theorem outonCommand : Obligations.OutonCommand := by
  refine fun s => ⟨outon_unconfigured, fun hc h hb => ?_, fun hc h hb => outon_gated h hb hc⟩
  rw [outon_clocked h hb hc, s.writeAll_outon _ (bit_or_one _)]

/-- Settles O21. -/
theorem outoffCommand : Obligations.OutoffCommand := by
  refine fun s h => ⟨fun hb => ?_, outoff_gated h⟩
  rw [outoff_clocked h hb, s.writeAll_outoff _ (bit_and_not_one _)]

end Sys2Proof.Machine
end

-- ==== WCFG then a pan by 0 ====
section
/-! PROOFS. The plan of a pan by 0 on a window that WCFG has just configured, and what the address multiplexer selects
before and after it (rules R158, R166, R167, R169). -/

namespace Sys2Proof.Machine

variable {s t : State} {k : Win} {fmt : BitVec 2} {se db bl pd : Bool} {f : Format} {l : Layout}

/-! ### What WCFG leaves for the pan (rule R158) -/

/-- What the next command finds of an undisturbed WCFG past its checks, with the bus clock on. -/
structure WcfgDone (s t : State) (k : Win) (f : Format) (l : Layout) (se db bl pd : Bool) : Prop where
  undisturbed : t.undisturbed
  clocked : t.clocked
  configured : t.port.configured = true
  window : t.windows[k] = windowRecord f s.wcfgArgs l s.cfg.fbBase[k] se db bl pd
  wrote : Wrote s (wcfgList s.shadow.alatch k f s.wcfgArgs l s.cfg.fbBase[k] se db bl) t

theorem wcfg_done (h : s.undisturbed) (hb : s.clocked) (hc : s.port.configured = true)
    (hcheck : wcfgCheck s.cfg k fmt db bl s.wcfgArgs = .ok (f, l))
    (he : exec (.wcfg k.val fmt se db bl pd) s = .next t) : WcfgDone s t k f l se db bl pd := by
  rw [wcfg_clocked h hb k hc hcheck] at he
  obtain rfl := Host.Outcome.next.inj he
  obtain ⟨m, hm⟩ := s.filled_eq k f l
  rw [hm]
  have hwrote := Wrote.writeAll { s with env := { s.env with mem := m } }
    (wcfgList s.shadow.alatch k f s.wcfgArgs l s.cfg.fbBase[k] se db bl)
  unfold wcfgList at hwrote
  generalize hu : State.writeAll _ _ = u at hwrote ⊢
  have hport : u.port = s.port := by rw [← hu, State.writeAll_port]
  have henv : u.env.schedule = s.env.schedule := by rw [← hu, State.writeAll_env]
  have hvsync : u.vsync = s.vsync := by rw [← hu, State.writeAll_vsync]
  obtain ⟨hfault, hhandler, hschedule⟩ := h
  refine ⟨⟨?fault, ?handler, henv.trans hschedule⟩, ?clocked, ?configured, PerWindow.set_self _ k _,
    ⟨hwrote.maskdepth, hwrote.power, hwrote.shadow, hwrote.regs⟩⟩
  case fault => rw [State.finish_port_fault, hport, hfault]
  case handler => rw [State.finish_vsync, hvsync, hhandler]
  case clocked => exact (congrArg Power.busclkOn hwrote.power).trans hb
  case configured => rw [State.finish_port_configured, hport, hc]

/-- A newly latched argument changes none of it (rule R22). -/
theorem WcfgDone.relatched (h : WcfgDone s t k f l se db bl pd) (x : Vector Word 6) :
    WcfgDone s { t with port := { t.port with latch := x } } k f l se db bl pd :=
  ⟨h.undisturbed, h.clocked, h.configured, h.window, h.wrote.of_eq rfl rfl rfl rfl⟩

theorem lastWrite_wcfg_end (latch : Word) (k : Win) (f : Format) (a : WcfgArgs) (l : Layout) (base : Word)
    (se db bl : Bool) : lastWrite (wcfgList latch k f a l base se db bl) (.win k .end0)
      = some (addressWord (base.toNat + l.visible)) := by
  unfold wcfgList wcfgAddressList wcfgProgramList
  by_cases hset : k.val ≤ 1 <;> by_cases hblend : 1 ≤ k.val <;> cases se <;> simp [lastWrite, hset, hblend]

/-- With the value that WCFG leaves in WINCTL, the multiplexer selects address set 0 (rules R156, R169). -/
theorem EngineRegs.bufsel_of_mode {e : EngineRegs}
    (hctl : e.get (.win k .ctl) = if se then f.mode ||| 0x00000001#32 else f.mode) : e.bufsel k = false := by
  obtain ⟨-, hsurface⟩ := f.bits_mode se
  show (decide (k.val ≤ 1) && bit (e.get (.win k .ctl)) 1) = false
  rw [hctl, hsurface, Bool.and_false]

/-- After WCFG the two copies agree on WINCTL, and both select the end of the buffer's first visible lines. -/
theorem WcfgDone.selects (h : WcfgDone s t k f l se db bl pd) :
    t.shadow.win[k].ctl = t.engine.regs.win[k].ctl
      ∧ t.shadow.selEnd k = addressWord (s.cfg.fbBase[k].toNat + l.visible)
      ∧ t.engine.regs.selEnd k = addressWord (s.cfg.fbBase[k].toNat + l.visible) := by
  obtain ⟨-, -, -, hctl⟩ := lastWrite_wcfg s.shadow.alatch k f s.wcfgArgs l s.cfg.fbBase[k] se db bl
  have hend := lastWrite_wcfg_end s.shadow.alatch k f s.wcfgArgs l s.cfg.fbBase[k] se db bl
  have hshadow := h.wrote.shadow_written hctl
  have hregs := h.wrote.regs_written hctl
  refine ⟨hshadow.trans hregs.symm, ?shadow, ?regs⟩
  case shadow =>
    rw [EngineRegs.selEnd_eq (EngineRegs.bufsel_of_mode hshadow)]
    exact h.wrote.shadow_written hend
  case regs =>
    rw [EngineRegs.selEnd_eq (EngineRegs.bufsel_of_mode hregs)]
    exact h.wrote.regs_written hend

/-! ### The plan of a pan by 0 (rules R165, R166) -/

theorem WcfgAccepted.length_pos {c : ConfigBank} {a : WcfgArgs} (h : WcfgAccepted c k db bl a f l) : 1 ≤ l.length :=
  (Nat.mul_pos h.height.1 h.stride_pos).trans_le h.inside

/-- A buffer is whole pages, so its second half does not begin at its first byte. -/
theorem WcfgAccepted.half_pos {c : ConfigBank} {a : WcfgArgs} (h : WcfgAccepted c k db bl a f l) :
    1 ≤ l.length / 2 := by
  have hpos := h.length_pos
  have hpages : l.length % 4096 = 0 := by
    rw [h.layout]
    exact roundToPage_mod _
  omega

/-- The plan of a pan by 0 of a buffer with its first byte at `base`. -/
def planAtBase (base : Word) (l : Layout) : PanPlan :=
  { start := base.toNat, stop := base.toNat + l.visible, half := false }

/-- A pan by 0 of a window just configured starts at the buffer's base, in the first half. -/
theorem WcfgAccepted.panPlan_zero {c : ConfigBank} {a : WcfgArgs} (h : WcfgAccepted c k db bl a f l) (base : Word)
    (se pd : Bool) : (windowRecord f a l base se db bl pd).panPlan 0 = some (planAtBase base l) := by
  have hvisible : l.visible = a.height * l.lineStride := by
    rw [h.layout]
    rfl
  have hhalf := h.half_pos
  have hinside := h.inside
  refine Window.panPlan_eq_some rfl ?fits ?start ?stop ?half
  case fits =>
    show 0 * l.lineStride + a.height * l.lineStride ≤ l.length
    omega
  case start =>
    show base.toNat = base.toNat + 0 * l.lineStride
    omega
  case stop => exact congrArg (base.toNat + ·) hvisible
  case half =>
    show false = true ↔ db = true ∧ l.length / 2 ≤ 0 * l.lineStride
    simp only [Bool.false_eq_true, false_iff]
    omega

/-- What the address multiplexer of the shadow says after WPAN's writes (rules R166, R169). -/
theorem Wrote.wpan_selects_shadow {p : PanPlan} (hw : Wrote s (wpanList s.shadow k p) t)
    (hhalf : p.half = true → k.val ≤ 1) :
    t.shadow.selStart k = addressWord p.start ∧ t.shadow.selEnd k = addressWord p.stop := by
  obtain ⟨-, hsel⟩ := hw.wpan_ctl hhalf
  rw [EngineRegs.selStart_eq hsel, EngineRegs.selEnd_eq hsel]
  exact ⟨hw.shadow_written (lastWrite_wpan_start s.shadow k p), hw.shadow_written (lastWrite_wpan_end s.shadow k p)⟩

theorem addressWord_toNat (w : Word) : addressWord w.toNat = w :=
  (BitVec.ofNat_toNat 32 w).trans (BitVec.setWidth_eq w)

/-- Settles O27: the pan's plan is the one that WCFG has programmed. -/
theorem identityPan : Obligations.IdentityPan := by
  rintro s t u i fmt se db bl pd f l h hb hc hcheck he ⟨x, hu⟩ hzero
  have hdone := wcfg_done h hb hc hcheck he
  have hready : WcfgDone s u i f l se db bl pd := by
    rw [hu]
    exact hdone.relatched x
  obtain ⟨-, hendShadow, hendRegs⟩ := hdone.selects
  obtain ⟨hctl, -, -⟩ := hready.selects
  have harg : u.panArg = 0 := congrArg BitVec.toNat hzero
  have hplan : u.windows[i].panPlan u.panArg = some (planAtBase s.cfg.fbBase[i] l) := by
    rw [harg, hready.window]
    exact (wcfgCheck_ok hcheck).panPlan_zero _ se pd
  have hrun := wpan_clocked hready.undisturbed hready.clocked i hready.configured hplan
  have hwrote := Wrote.writeAll u (wpanList u.shadow i (planAtBase s.cfg.fbBase[i] l))
  obtain ⟨-, hpanStartRegs, hpanEndRegs⟩ := hwrote.wpan_selects hctl Bool.noConfusion
  obtain ⟨hpanStartShadow, hpanEndShadow⟩ := hwrote.wpan_selects_shadow Bool.noConfusion
  have hbase : addressWord (planAtBase s.cfg.fbBase[i] l).start = s.cfg.fbBase[i] := addressWord_toNat _
  rw [hbase] at hpanStartRegs hpanStartShadow
  generalize u.writeAll (wpanList u.shadow i (planAtBase s.cfg.fbBase[i] l)) = w at *
  refine ⟨_, hrun, rfl, hpanStartShadow, hpanStartRegs, hpanEndShadow.trans hendShadow.symm,
    hpanEndRegs.trans hendRegs.symm, ?_⟩
  rw [State.finish_windows, PerWindow.set_self, Window.panned, harg]

end Sys2Proof.Machine
end

-- ==== The words that WCFG writes ====
section
/-! PROOFS. WINBLEND and WINKEY as numbers, the key that the compositor reads back from WINKEY, and the palette tables
after WCFG (rules R156, R159, R181, R201). -/

namespace Sys2Proof.Machine

/-! ### Fields placed from the highest down -/

/-- A word that fits below a multiple of 2^k adds to it. -/
theorem toNat_or_below {a b : Word} {m n : Nat} (k : Nat) (ha : a.toNat = 2 ^ k * m) (hb : b.toNat = n)
    (hn : n < 2 ^ k) : (a ||| b).toNat = 2 ^ k * m + n := by
  subst hb
  rw [BitVec.toNat_or, ha, Nat.two_pow_add_eq_or_of_lt hn]

theorem word_shiftLeft_toNat {n k : Nat} (h : n * 2 ^ k < 4294967296) : (word n <<< k).toNat = n * 2 ^ k := by
  have hn : n < 4294967296 := Nat.lt_of_le_of_lt (Nat.le_mul_of_pos_right n (Nat.two_pow_pos k)) h
  rw [BitVec.toNat_shiftLeft, word_toNat hn, Nat.shiftLeft_eq, Nat.mod_eq_of_lt h]

/-! ### WINBLEND and WINKEY (rule R159) -/

theorem blendWord_toNat (b : Blend) : (blendWord (some b)).toNat = 256 * b.alpha.toNat + 3 := by
  have halpha := b.alpha.isLt
  have hshift := word_shiftLeft_toNat (n := b.alpha.toNat) (k := 8) (by omega)
  exact toNat_or_below 8 (hshift.trans (Nat.mul_comm _ _)) rfl (by decide)

/-- One component of the 5-6-5 packing, below the word `above`: at bit `k`, over the marker bits of its place. -/
def keyField (above : Word) (c k marker : Nat) : Word := above ||| (word c <<< k) ||| word marker

theorem keyWord_rgb565 (b : Blend) : keyWord .rgb565 (some b)
    = keyField (keyField (keyField 0 (b.keyR.toNat % 32) 19 0x70000) (b.keyG.toNat % 64) 10 0x300)
        (b.keyB.toNat % 32) 3 7 := by
  have hR : b.keyR.toNat &&& 0x1F = b.keyR.toNat % 32 := Nat.and_two_pow_sub_one_eq_mod _ 5
  have hG : b.keyG.toNat &&& 0x3F = b.keyG.toNat % 64 := Nat.and_two_pow_sub_one_eq_mod _ 6
  have hB : b.keyB.toNat &&& 0x1F = b.keyB.toNat % 32 := Nat.and_two_pow_sub_one_eq_mod _ 5
  have hzero : ∀ w : Word, 0 ||| w = w := fun _ => BitVec.zero_or
  rw [← hR, ← hG, ← hB]
  unfold keyField
  rw [hzero]
  rfl

/-- A component of `n` bits adds to what stands above it, and its marker to both. -/
theorem keyField_toNat {above : Word} {m c marker : Nat} (k n : Nat) (habove : above.toNat = 2 ^ (k + n) * m)
    (hc : c < 2 ^ n) (hmarker : marker < 2 ^ k) (hplace : k + n ≤ 32) :
    (keyField above c k marker).toNat = 2 ^ (k + n) * m + 2 ^ k * c + marker := by
  have hword : 2 ^ (k + n) ≤ 4294967296 := Nat.pow_le_pow_right (by decide) hplace
  have hfield : c * 2 ^ k < 2 ^ (k + n) := by
    rw [Nat.add_comm, Nat.pow_add]
    exact Nat.mul_lt_mul_of_pos_right hc (Nat.two_pow_pos k)
  have hk : 2 ^ k ≤ 2 ^ (k + n) := Nat.pow_le_pow_right (by decide) (Nat.le_add_right k n)
  have hcomponent := toNat_or_below (k + n) habove (word_shiftLeft_toNat (hfield.trans_le hword)) hfield
  have hsum : 2 ^ (k + n) * m + c * 2 ^ k = 2 ^ k * (2 ^ n * m + c) := by
    rw [Nat.pow_add]
    ring
  unfold keyField
  rw [toNat_or_below k (hcomponent.trans hsum) (word_toNat ((hmarker.trans_le hk).trans_le hword)) hmarker, ← hsum,
    Nat.mul_comm c]

theorem keyWord_rgb565_toNat (b : Blend) : (keyWord .rgb565 (some b)).toNat
    = 524288 * (b.keyR.toNat % 32) + 0x70000 + 1024 * (b.keyG.toNat % 64) + 0x300 + 8 * (b.keyB.toNat % 32) + 7 := by
  have hred := keyField_toNat (above := 0) (m := 0) (c := b.keyR.toNat % 32) (marker := 0x70000) 19 5 rfl (by omega)
    (by decide) (by decide)
  have hgreen := keyField_toNat (m := 8 * (b.keyR.toNat % 32) + 7) (c := b.keyG.toNat % 64) (marker := 0x300) 10 6
    (by rw [hred]; omega) (by omega) (by decide) (by decide)
  have hblue := keyField_toNat (m := 2048 * (b.keyR.toNat % 32) + 1792 + 4 * (b.keyG.toNat % 64) + 3)
    (c := b.keyB.toNat % 32) (marker := 7) 3 5 (by rw [hgreen]; omega) (by omega) (by decide) (by decide)
  rw [keyWord_rgb565, hblue]
  omega

/-- The 8-8-8 packing is three fields of eight bits. -/
theorem keyWord_rgb888_toNat (b : Blend) : (keyWord .rgb888 (some b)).toNat
    = 65536 * b.keyR.toNat + 256 * b.keyG.toNat + b.keyB.toNat := by
  rw [Nat.mul_comm 65536, Nat.mul_comm 256]
  exact toNat_threeFields b.keyR.isLt b.keyG.isLt b.keyB.isLt

/-! ### The key read back (rule R201) -/

/-- The comparator finds the key's components between the marker bits. -/
theorem keyMatches_rgb565_iff (b : Blend) (v : Nat) (src : Rgb) :
    keyMatches (keyWord .rgb565 (some b)) .rgb565 v src = true ↔ v / 2048 % 32 = b.keyR.toNat % 32
      ∧ v / 32 % 64 = b.keyG.toNat % 64 ∧ v % 32 = b.keyB.toNat % 32 := by
  have hkey := keyWord_rgb565_toNat b
  have hR : bits (keyWord .rgb565 (some b)) 23 19 = b.keyR.toNat % 32 := by rw [bits_eq, hkey]; omega
  have hG : bits (keyWord .rgb565 (some b)) 15 10 = b.keyG.toNat % 64 := by rw [bits_eq, hkey]; omega
  have hB : bits (keyWord .rgb565 (some b)) 7 3 = b.keyB.toNat % 32 := by rw [bits_eq, hkey]; omega
  simp only [keyMatches, hR, hG, hB, red5, green6, blue5, Nat.shiftRight_eq_div_pow, Bool.and_eq_true,
    decide_eq_true_eq, and_assoc]

/-- A byte whose value stands in a word at a bit, with whole bytes above it. -/
theorem byteAt_eq {w lo m : Nat} {b : Byte} (h : w / 2 ^ lo = 256 * m + b.toNat) : byteAt w lo = b := by
  apply BitVec.eq_of_toNat_eq
  rw [byteAt, Nat.shiftRight_eq_div_pow, h, BitVec.toNat_ofNat]
  omega

/-- The 8-8-8 key is the colour whose components it packs. -/
theorem rgbOf_keyWord_rgb888 (b : Blend) :
    rgbOf (keyWord .rgb888 (some b)).toNat = { r := b.keyR, g := b.keyG, b := b.keyB } := by
  have hG := b.keyG.isLt
  have hB := b.keyB.isLt
  rw [keyWord_rgb888_toNat, rgbOf, byteAt_eq (b := b.keyR) (m := 0) (by omega),
    byteAt_eq (b := b.keyG) (m := b.keyR.toNat) (by omega),
    byteAt_eq (b := b.keyB) (m := 256 * b.keyR.toNat + b.keyG.toNat) (by omega)]

theorem keyMatches_rgb888_iff (b : Blend) (v : Nat) (src : Rgb) :
    keyMatches (keyWord .rgb888 (some b)) .rgb888 v src = true ↔ src = { r := b.keyR, g := b.keyG, b := b.keyB } := by
  rw [keyMatches, rgbOf_keyWord_rgb888, decide_eq_true_iff]

/-! ### The mode code read back (rules R156, R198) -/

theorem Format.modeFormat_mode (f : Format) :
    modeFormat f.mode = some f ∧ modeFormat (f.mode ||| 0x00000001#32) = some f := by
  cases f <;> decide

/-! ### The palette tables (rule R181) -/

/-- WCFG to Indexed8 keeps the window's table, or gives it a clear one; the marks stay. -/
theorem PalettePending.reformat_indexed8 (p : PalettePending) (i : Win) :
    (p.reformat i .indexed8).table[i] = some (p.table[i].getD PendTable.clear)
      ∧ (p.reformat i .indexed8).dirty = p.dirty ∧ (p.reformat i .indexed8).request = p.request :=
  ⟨PerWindow.set_self _ i _, rfl, rfl⟩

/-- WCFG to a format without a palette drops the window's table and its marks. -/
theorem PalettePending.reformat_direct (p : PalettePending) (i : Win) {f : Format} (hf : f ≠ .indexed8) :
    (p.reformat i f).table[i] = none ∧ (p.reformat i f).dirty[i] = false ∧ (p.reformat i f).request[i] = false := by
  cases f with
  | indexed8 => exact absurd rfl hf
  | rgb565 => exact ⟨PerWindow.set_self _ i _, PerWindow.set_self _ i _, PerWindow.set_self _ i _⟩
  | rgb888 => exact ⟨PerWindow.set_self _ i _, PerWindow.set_self _ i _, PerWindow.set_self _ i _⟩

theorem PalettePending.reformat_request_ne (p : PalettePending) (f : Format) {i j : Win} (hj : j ≠ i) :
    (p.reformat i f).request[j] = p.request[j] := by
  cases f with
  | indexed8 => rfl
  | rgb565 => exact PerWindow.set_ne _ hj _
  | rgb888 => exact PerWindow.set_ne _ hj _

/-- Settles O24. -/
theorem wcfgWords : Obligations.WcfgWords := by
  refine ⟨⟨rfl, rfl, rfl⟩, fun f => ?mode, fun _ => ⟨rfl, rfl⟩,
    fun b => ⟨blendWord_toNat b, keyWord_rgb565_toNat b, keyWord_rgb888_toNat b⟩,
    fun b v src => ⟨keyMatches_rgb565_iff b v src, keyMatches_rgb888_iff b v src⟩,
    fun _ _ _ _ _ _ _ _ => rfl,
    fun p i j => ⟨p.reformat_indexed8 i, fun _ => p.reformat_direct i, fun f hj => ?others⟩⟩
  case mode =>
    obtain ⟨hread, hreadEnabled⟩ := f.modeFormat_mode
    obtain ⟨henable, hsurface⟩ := f.bits_mode false
    exact ⟨hread, hreadEnabled, henable, hsurface⟩
  case others =>
    obtain ⟨htable, hdirty⟩ := p.reformat_ne f hj
    exact ⟨htable, hdirty, p.reformat_request_ne f hj⟩

end Sys2Proof.Machine
end

-- ==== PSET and PFLUSH in full ====
section
/-! PROOFS. The refusals of PSET and PFLUSH, PSET's store, and a colour that PSET stores in a clear table and PFLUSH
carries to the palette memory (rules R182 to R187, R191). -/

namespace Sys2Proof.Machine

variable {s : State} {i : Win}

/-! ### PSET (rules R182, R183) -/

theorem exec_pset (s : State) (win idx : Nat) : exec (.pset win idx) s = execPset win idx s := rfl

theorem onIndexed_refused (hf : s.windows[i].format ≠ some .indexed8) (body : Host.Outcome State Fault Refusal) :
    onIndexed s i body = .next (s.finish .invalidFormat 0) := by
  rw [onIndexed, if_neg hf]
  rfl

theorem PalettePending.store_eq {p : PalettePending} {tbl : PendTable} (htbl : p.table[i] = some tbl)
    (k : Fin Config.paletteSize) (v : Word) : p.store i k v =
      { p with table := p.table.set i (some (tbl.set k (some v))), dirty := p.dirty.set i true } := by
  rw [PalettePending.store, htbl]
  rfl

/-- Past its checks PSET answers in every power state and in every state of the other agents. -/
theorem pset_ready (hf : s.windows[i].format = some .indexed8) {tbl : PendTable} (htbl : s.pend.table[i] = some tbl)
    (k : Fin Config.paletteSize) : exec (.pset i.val k.val) s = .next (State.finish
      { s with pend := { s.pend with
          table := s.pend.table.set i (some (tbl.set k (some s.port.latch[0])))
          dirty := s.pend.dirty.set i true } } .ok 0) := by
  have hk : Fin.ofNat Config.paletteSize k.val = k := Fin.ofNat_val_eq_self k
  rw [exec_pset, execPset, onWindow_valid, onIndexed, if_pos hf, hk, PalettePending.store_eq htbl]
  rfl

/-- Settles O31. -/
theorem psetCommand : Obligations.PsetCommand := by
  refine fun s idx => ⟨fun win hwin => ?window, fun i => ⟨fun hf => ?format, fun k tbl hidx hf htbl => ?stored⟩⟩
  case window => rw [exec_pset, execPset, onWindow_invalid hwin]
  case format => rw [exec_pset, execPset, onWindow_valid, onIndexed_refused hf]
  case stored =>
    subst hidx
    exact pset_ready hf htbl k

/-! ### PFLUSH (rules R184, R185, R187) -/

/-- Settles O32. -/
theorem pflushCommand : Obligations.PflushCommand := by
  refine fun s => ⟨fun win hwin => ?window, fun i => ⟨fun hf => ?format, fun hf h =>
    ⟨pflush_deferred h i hf, fun hd hb => pflush_clocked h hb i hf hd, pflush_clean h i hf,
      fun hd hdirty hb => pflush_gated h hb i hf hd hdirty⟩⟩⟩
  case window => rw [exec_pflush, execPflush, onWindow_invalid hwin]
  case format => rw [exec_pflush, execPflush, onWindow_valid, onIndexed_refused hf]

/-! ### One colour from the pending table to the palette memory (rules R187, R191) -/

/-- A table with one colour makes a flush write that one entry (rule R187 f3). -/
theorem PendTable.values_clear_set (k : Fin Config.paletteSize) (v : Word) :
    PendTable.values (PendTable.clear.set k (some v)) = [(k, v)] := by
  have hentry : ∀ j : Fin Config.paletteSize,
      (PendTable.clear.set k (some v))[j].map (fun w => (j, w)) = if j = k then some (k, v) else none := by
    intro j
    rw [paletteWords_set, PendTable.clear_get]
    split
    · next h => rw [h]; rfl
    · rfl
  obtain ⟨before, after, hsplit⟩ := List.append_of_mem (List.mem_finRange k)
  have hnodup := List.nodup_finRange Config.paletteSize
  rw [hsplit, List.nodup_middle, List.nodup_cons, List.mem_append, not_or] at hnodup
  obtain ⟨⟨hbefore, hafter⟩, -⟩ := hnodup
  have hothers : ∀ l : List (Fin Config.paletteSize), k ∉ l →
      l.filterMap (fun j => if j = k then some (k, v) else none) = [] := fun l hl =>
    List.filterMap_eq_nil_iff.mpr fun j hj => if_neg (ne_of_mem_of_not_mem hj hl)
  simp only [PendTable.values, hentry]
  rw [hsplit, List.filterMap_append, hothers before hbefore, List.filterMap_cons, hothers after hafter, if_pos rfl]
  rfl

theorem PaletteMem.flushedBy_get (p : PaletteMem) (tbl : PendTable) (k : Fin Config.paletteSize) :
    (p.flushedBy tbl).words[k] = (tbl[k]).or p.words[k] :=
  Vector.getElem_ofFn k.isLt

/-- What a flush of a dirty table does to the palette memories, the count and the pending tables. -/
theorem State.flushed_dirty (hdirty : s.pend.dirty[i] = true) {tbl : PendTable} (htbl : s.pend.table[i] = some tbl) :
    (s.flushed i).engine.palram = s.engine.palram.set i (s.engine.palram[i].flushedBy tbl)
      ∧ (s.flushed i).hwwrcnt = s.hwwrcnt + word (tbl.values.length + 2)
      ∧ (s.flushed i).pend = s.pend.cleared i := by
  rw [State.flushed, hdirty, htbl]
  exact ⟨rfl, rfl, rfl⟩

theorem PalettePending.cleared_self {p : PalettePending} {tbl : PendTable} (htbl : p.table[i] = some tbl) :
    (p.cleared i).table[i] = some PendTable.clear ∧ (p.cleared i).dirty[i] = false := by
  rw [PalettePending.cleared, htbl]
  exact ⟨PerWindow.set_self _ i _, PerWindow.set_self _ i _⟩

/-- Settles O33: PSET leaves a dirty table of one colour, and the flush writes that entry between its two writes of
PALCTL. -/
theorem colourReachesPalette : Obligations.ColourReachesPalette := by
  intro s t u i k h hb hf hd hclear hset hflush
  have ht := Host.Outcome.next.inj ((pset_ready hf hclear k).symm.trans hset)
  obtain ⟨hrun, hclock, hwindows, hengine, hcount⟩ : t.undisturbed ∧ t.clocked ∧ t.windows = s.windows
      ∧ t.engine = s.engine ∧ t.hwwrcnt = s.hwwrcnt := by
    rw [← ht]
    exact ⟨h, hb, rfl, rfl, rfl⟩
  obtain ⟨htbl, hdirty⟩ : t.pend.table[i] = some (PendTable.clear.set k (some s.port.latch[0]))
      ∧ t.pend.dirty[i] = true := by
    rw [← ht]
    exact ⟨PerWindow.set_self _ i _, PerWindow.set_self _ i _⟩
  have hu := Host.Outcome.next.inj
    ((pflush_clocked hrun hclock i (by rw [hwindows, hf]) (by rw [hwindows, hd])).symm.trans hflush)
  obtain ⟨hpalram, hwrites, hpend⟩ := State.flushed_dirty hdirty htbl
  obtain ⟨htable, hmark⟩ := PalettePending.cleared_self htbl
  have hword : ∀ j : Fin Config.paletteSize, u.engine.palram[i].words[j]
      = (if j = k then some s.port.latch[0] else none).or s.engine.palram[i].words[j] := by
    intro j
    rw [← hu, State.finish_engine, hpalram, PerWindow.set_self, PaletteMem.flushedBy_get, hengine, paletteWords_set,
      PendTable.clear_get]
  refine ⟨?colour, ?count, ?table, ?mark, fun j hj => ?words, fun j hj => ?windows⟩
  case colour =>
    rw [hword, if_pos rfl]
    rfl
  case count =>
    rw [← hu, State.finish_hwwrcnt, hwrites, hcount, PendTable.values_clear_set]
    rfl
  case table => rw [← hu, State.finish_pend, hpend, htable]
  case mark => rw [← hu, State.finish_pend, hpend, hmark]
  case words =>
    rw [hword, if_neg hj]
    rfl
  case windows => rw [← hu, State.finish_engine, hpalram, PerWindow.set_ne _ hj, hengine]

end Sys2Proof.Machine
end

-- ==== Colours: decode, key, blend ====
section
/-! PROOFS. The colour of a fetched value in each format, the colour key in numbers, and the alpha blend (rules R199 to
R201, R206). -/

namespace Sys2Proof.Machine

/-! ### Pixel decode (rules R199, R200) -/

/-- Bit replication: the copied top bits fall into the room that the shift makes, so they add to it. -/
theorem shiftLeft_or_shiftRight {c m n : Nat} (h : c / 2 ^ n < 2 ^ m) :
    (c <<< m) ||| (c >>> n) = c * 2 ^ m + c / 2 ^ n := by
  rw [Nat.shiftLeft_eq, Nat.shiftRight_eq_div_pow, Nat.mul_comm, Nat.two_pow_add_eq_or_of_lt h]

theorem expand5_eq {c : Nat} (h : c < 32) : expand5 c = BitVec.ofNat 8 (c * 8 + c / 4) := by
  have hfit : c / 2 ^ 2 < 2 ^ 3 := by omega
  exact congrArg _ (shiftLeft_or_shiftRight hfit)

theorem expand6_eq {c : Nat} (h : c < 64) : expand6 c = BitVec.ofNat 8 (c * 4 + c / 16) := by
  have hfit : c / 2 ^ 4 < 2 ^ 2 := by omega
  exact congrArg _ (shiftLeft_or_shiftRight hfit)

theorem red5_eq (v : Nat) : red5 v = v / 2048 % 32 := by
  rw [red5, Nat.shiftRight_eq_div_pow]

theorem red5_of_lt {v : Nat} (h : v < 65536) : red5 v = v / 2048 := by
  rw [red5_eq]
  omega

theorem green6_eq (v : Nat) : green6 v = v / 32 % 64 := by
  rw [green6, Nat.shiftRight_eq_div_pow]

theorem rgbOf_eq (v : Nat) :
    rgbOf v = { r := BitVec.ofNat 8 (v / 65536), g := BitVec.ofNat 8 (v / 256), b := BitVec.ofNat 8 v } := by
  simp only [rgbOf, byteAt, Nat.shiftRight_eq_div_pow, Nat.reducePow, Nat.div_one]

/-- Settles O51: the 5-6-5 components by bit replication, the 8-8-8 components and the palette's word as three bytes. -/
theorem pixelDecode : Obligations.PixelDecode := by
  refine fun e i v => ⟨fun hv => ?rgb565, rgbOf_eq v, fun k c hk hc => ?indexed8, fun f p => ?palram⟩
  case rgb565 =>
    have hred : red5 v < 32 := Nat.mod_lt _ (by decide)
    have hgreen : green6 v < 64 := Nat.mod_lt _ (by decide)
    have hblue : blue5 v < 32 := Nat.mod_lt _ (by decide)
    rw [Engine.decodePixel, expand5_eq hred, expand6_eq hgreen, expand5_eq hblue, red5_of_lt hv, green6_eq, blue5]
  case indexed8 =>
    subst hk hc
    rw [Engine.decodePixel, Fin.ofNat_val_eq_self, rgbOf_eq, PaletteMem.value]
  case palram => cases f <;> rfl

/-! ### The colour key (rule R201) -/

theorem rgb_eq_rgbOf_iff (src : Rgb) (key : Word) : src = rgbOf key.toNat ↔
    src.r.toNat = bits key 23 16 ∧ src.g.toNat = bits key 15 8 ∧ src.b.toNat = bits key 7 0 := by
  have hbyte : ∀ (c : Byte) (lo : Nat), c = byteAt key.toNat lo ↔ c.toNat = bits key (lo + 7) lo := by
    intro c lo
    rw [← BitVec.toNat_inj, byteAt, BitVec.toNat_ofNat, bits, Nat.add_sub_cancel_left]
  rw [← hbyte _ 16, ← hbyte _ 8, ← hbyte _ 0, rgbOf, Rgb.mk.injEq]

/-- The model's comparator is the comparison in numbers. -/
theorem keyMatches_iff_keyHits (key : Word) (f : Format) (v : Nat) (src : Rgb) :
    keyMatches key f v src = true ↔ keyHits key f v src := by
  cases f with
  | rgb565 =>
    simp only [keyMatches, Bool.and_eq_true, decide_eq_true_eq, and_assoc]
    rw [keyHits, if_pos rfl, red5_eq, green6_eq, blue5]
  | rgb888 => rw [keyHits, if_neg (by decide), keyMatches, decide_eq_true_iff, rgb_eq_rgbOf_iff]
  | indexed8 => rw [keyHits, if_neg (by decide), keyMatches, decide_eq_true_iff, rgb_eq_rgbOf_iff]

/-! ### The alpha blend (rule R206) -/

/-- The weights `a` and `255 - a` add to 255, so the weighted mean of two bytes is a byte. -/
theorem blend_le (src dst a : Byte) : (src.toNat * a.toNat + dst.toNat * (255 - a.toNat)) / 255 ≤ 255 := by
  have hsrc : src.toNat ≤ 255 := Nat.le_of_lt_succ src.isLt
  have hdst : dst.toNat ≤ 255 := Nat.le_of_lt_succ dst.isLt
  have ha : a.toNat ≤ 255 := Nat.le_of_lt_succ a.isLt
  apply Nat.div_le_of_le_mul
  calc src.toNat * a.toNat + dst.toNat * (255 - a.toNat)
      ≤ 255 * a.toNat + 255 * (255 - a.toNat) :=
        Nat.add_le_add (Nat.mul_le_mul_right _ hsrc) (Nat.mul_le_mul_right _ hdst)
    _ = 255 * 255 := by rw [← Nat.mul_add, Nat.add_sub_cancel' ha]

theorem blendComponent_toNat (src dst a : Byte) :
    (blendComponent src dst a).toNat = (src.toNat * a.toNat + dst.toNat * (255 - a.toNat)) / 255 := by
  rw [blendComponent, BitVec.toNat_ofNat, Nat.mod_eq_of_lt (Nat.lt_succ_of_le (blend_le src dst a))]

/-- Settles O50. -/
theorem blendArithmetic : Obligations.BlendArithmetic := by
  refine fun src dst a => ⟨blendComponent_toNat src dst a, BitVec.eq_of_toNat_eq ?solid, BitVec.eq_of_toNat_eq ?clear⟩
  case solid =>
    have h255 : (255 : Byte).toNat = 255 := rfl
    rw [blendComponent_toNat, h255]
    omega
  case clear =>
    have h0 : (0 : Byte).toNat = 0 := rfl
    rw [blendComponent_toNat, h0]
    omega

theorem blendOver_eq (src dst : Rgb) (blend : Word) : blendOver src dst (byteAt blend.toNat 8) =
    { r := BitVec.ofNat 8 ((src.r.toNat * bits blend 15 8 + dst.r.toNat * (255 - bits blend 15 8)) / 255)
      g := BitVec.ofNat 8 ((src.g.toNat * bits blend 15 8 + dst.g.toNat * (255 - bits blend 15 8)) / 255)
      b := BitVec.ofNat 8 ((src.b.toNat * bits blend 15 8 + dst.b.toNat * (255 - bits blend 15 8)) / 255) } := by
  have halpha : (byteAt blend.toNat 8).toNat = bits blend 15 8 := BitVec.toNat_ofNat _ _
  simp only [blendOver, blendComponent, halpha]

end Sys2Proof.Machine
end

-- ==== The compositor, window by window ====
section
/-! PROOFS. What one window's turn does to the colour composed below it, and the composed pixel as the five turns in
ascending order (rules R197, R198, R201 to R207). -/

namespace Sys2Proof.Machine

/-! ### Coverage (rule R197) -/

theorem WinRegs.covers_iff (w : WinRegs) (px py : Nat) : w.covers px py = true ↔ bit w.ctl 0 = true
    ∧ bits w.posA 27 16 ≤ px ∧ px ≤ bits w.posB 27 16 ∧ bits w.posA 11 0 ≤ py ∧ py ≤ bits w.posB 11 0 := by
  simp only [WinRegs.covers, Bool.and_eq_true, decide_eq_true_eq, and_assoc]

/-! ### What a covering pixel does (rules R201 to R207) -/

section layer

variable {w : WinRegs} {i : Win} {f : Format} {v : Nat} {src acc : Rgb}

theorem WinRegs.layer_bottom (hi : i.val = 0) : w.layer i f v src acc = src := if_pos hi

theorem WinRegs.layer_keyed (hi : 1 ≤ i.val) (hkey : bit w.blend 0 = true) (hhit : keyHits w.key f v src) :
    w.layer i f v src acc = acc := by
  rw [← keyMatches_iff_keyHits] at hhit
  rw [WinRegs.layer, if_neg (Nat.ne_of_gt hi), if_pos (by rw [hkey, hhit]; rfl)]

/-- A pixel that the key does not take away shows, with the alpha level if there is one. -/
theorem WinRegs.layer_shown (hi : 1 ≤ i.val) (h : bit w.blend 0 = false ∨ ¬ keyHits w.key f v src) :
    w.layer i f v src acc
      = if bit w.blend 1 = true then blendOver src acc (byteAt w.blend.toNat 8) else src := by
  have hmiss : ¬ (bit w.blend 0 && keyMatches w.key f v src) = true := by
    rw [Bool.and_eq_true, keyMatches_iff_keyHits]
    rintro ⟨hkey, hhit⟩
    exact h.elim (fun hoff => ne_true_of_eq_false hoff hkey) (fun hno => hno hhit)
  rw [WinRegs.layer, if_neg (Nat.ne_of_gt hi), if_neg hmiss]

/-- Window 0, and a window above it with neither key nor alpha, shows its own colour. -/
theorem WinRegs.layer_opaque (h : i.val = 0 ∨ bit w.blend 0 = false ∧ bit w.blend 1 = false) :
    w.layer i f v src acc = src := by
  rcases Nat.eq_zero_or_pos i.val with hi | hi
  · exact WinRegs.layer_bottom hi
  · obtain ⟨hkey, halpha⟩ := h.resolve_left (Nat.ne_of_gt hi)
    rw [WinRegs.layer_shown hi (.inl hkey), if_neg (ne_true_of_eq_false halpha)]

end layer

/-! ### One window's turn (rule R207) -/

section turn

variable {s : State} {px py : Nat} {i : Win}

theorem State.composeWindow_uncovered (acc : Rgb)
    (h : s.engine.regs.win[i].covers px py = false ∨ modeFormat s.engine.regs.win[i].ctl = none) :
    s.composeWindow px py acc i = acc := by
  unfold State.composeWindow
  split
  · rfl
  · next f hmode =>
    have hout := h.resolve_right (by rw [hmode]; exact Option.some_ne_none f)
    rw [if_neg (ne_true_of_eq_false hout)]

theorem State.composeWindow_covered {f : Format} (acc : Rgb) (hcover : s.engine.regs.win[i].covers px py = true)
    (hmode : modeFormat s.engine.regs.win[i].ctl = some f) : s.composeWindow px py acc i
      = s.engine.regs.win[i].layer i f (s.pixelAt i f px py) (s.engine.decodePixel i f (s.pixelAt i f px py)) acc := by
  unfold State.composeWindow
  simp only [hmode, hcover, if_true]
  rfl

/-- The turn of window `i` takes the colour composed below it to the colour composed below the next. -/
theorem State.composedBelow_succ (s : State) (px py : Nat) (i : Win) :
    s.composedBelow px py (i.val + 1) = s.composeWindow px py (s.composedBelow px py i.val) i := by
  have hi : i.val < (List.finRange Config.nwin).length := by
    rw [List.length_finRange]
    exact i.isLt
  rw [State.composedBelow, List.take_succ_eq_append_getElem hi, List.foldl_append, List.getElem_finRange]
  rfl

theorem State.compose_eq_composedBelow (s : State) (px py : Nat) : s.compose px py = s.composedBelow px py 5 := rfl

/-- Turns of windows that do not cover leave the colour. -/
theorem State.composedBelow_of_uncovered {m n : Nat} (hmn : m ≤ n) (hn : n ≤ Config.nwin)
    (h : ∀ j : Win, m ≤ j.val → s.engine.regs.win[j].covers px py = false) :
    s.composedBelow px py n = s.composedBelow px py m := by
  induction n, hmn using Nat.le_induction with
  | base => rfl
  | succ n hmn ih =>
    calc s.composedBelow px py (n + 1) = s.composeWindow px py (s.composedBelow px py n) ⟨n, hn⟩ :=
          s.composedBelow_succ px py ⟨n, hn⟩
      _ = s.composedBelow px py n := State.composeWindow_uncovered _ (.inl (h ⟨n, hn⟩ hmn))
      _ = s.composedBelow px py m := ih (Nat.le_of_succ_le hn) h

end turn

/-- Settles O49: each clause is one window's turn, and the composed colour is where the last turn that changes it
leaves it. -/
theorem composedPixel : Obligations.ComposedPixel := by
  refine fun s px py => ⟨⟨s.compose_eq_composedBelow px py, rfl⟩, fun i => WinRegs.covers_iff _ px py,
    fun i hout => ?uncovered, fun i f v src hcover hmode hv hsrc => ?covered, fun hnone => ?nothing,
    fun i f hmode hcover habove hopaque => ?topmost⟩
  case uncovered => rw [s.composedBelow_succ, State.composeWindow_uncovered _ hout]
  case covered =>
    have hturn : s.composedBelow px py (i.val + 1)
        = s.engine.regs.win[i].layer i f v src (s.composedBelow px py i.val) := by
      rw [s.composedBelow_succ, State.composeWindow_covered _ hcover hmode, hsrc, hv]
    refine ⟨fun hi => ?bottom, fun hi hkey hhit => ?keyed, fun hi hshow => ⟨fun halpha => ?solid,
      fun a acc halpha ha hacc => ?blended⟩⟩
    case bottom =>
      rw [WinRegs.layer_bottom hi, hi] at hturn
      exact hturn
    case keyed => rw [hturn, WinRegs.layer_keyed hi hkey hhit]
    case solid => rw [hturn, WinRegs.layer_shown hi hshow, if_neg (ne_true_of_eq_false halpha)]
    case blended => rw [hturn, WinRegs.layer_shown hi hshow, if_pos halpha, blendOver_eq, ha, hacc]
  case nothing => exact State.composedBelow_of_uncovered (Nat.zero_le 5) le_rfl fun j _ => hnone j
  case topmost =>
    calc s.compose px py = s.composedBelow px py (i.val + 1) :=
          State.composedBelow_of_uncovered i.isLt le_rfl fun j hj => habove j hj
      _ = s.composeWindow px py (s.composedBelow px py i.val) i := s.composedBelow_succ px py i
      _ = s.engine.decodePixel i f (s.pixelAt i f px py) := by
          rw [State.composeWindow_covered _ hcover hmode, WinRegs.layer_opaque hopaque]

end Sys2Proof.Machine
end

-- ==== A frame of scan-out ====
section
/-! PROOFS. The cursor in raster order, what a run of scan-out turns keeps, and a frame that nothing cuts short (rules
R195, R196, R209). -/

namespace Sys2Proof.Machine

/-! ### Raster order (rules R195, R196) -/

theorem Engine.panelWidth_eq (e : Engine) : e.panelWidth = e.regs.timsize.toNat % 4096 + 1 :=
  congrArg (· % 4096 + 1) (Nat.shiftRight_zero (n := e.regs.timsize.toNat))

theorem Engine.panelHeight_eq (e : Engine) : e.panelHeight = e.regs.timsize.toNat / 65536 % 4096 + 1 :=
  congrArg (· + 1) (bits_eq e.regs.timsize 27 16)

/-- The cursor after `k` pixels of a frame of `w` by `h`. -/
def rasterCursor (w h k : Nat) : Cursor := if k < w * h then .at (k % w) (k / w) else .idle

theorem rasterCursor_of_lt {w h k : Nat} (hk : k < w * h) : rasterCursor w h k = .at (k % w) (k / w) := if_pos hk

theorem rasterCursor_end (w h : Nat) : rasterCursor w h (w * h) = .idle := if_neg (Nat.lt_irrefl _)

/-- Column `x` of line `y` is reached after `y` whole lines and `x` pixels. -/
theorem rasterCursor_at {w x : Nat} (h y : Nat) (hx : x < w) :
    rasterCursor w h (x + w * y) = if y < h then .at x y else .idle := by
  have hw : 0 < w := Nat.zero_lt_of_lt hx
  have hline : (x + w * y) / w = y := by rw [Nat.add_mul_div_left _ _ hw, Nat.div_eq_of_lt hx, Nat.zero_add]
  have hcolumn : (x + w * y) % w = x := by rw [Nat.add_mul_mod_self_left, Nat.mod_eq_of_lt hx]
  have hinside : x + w * y < w * h ↔ y < h := by rw [Nat.mul_comm w h, ← Nat.div_lt_iff_lt_mul hw, hline]
  simp only [rasterCursor, hline, hcolumn, hinside]

/-- One pixel on: along the line, else to the start of the next line, else to the end of the frame. -/
theorem Engine.nextCursor_raster (e : Engine) {k : Nat} (hk : k < e.panelWidth * e.panelHeight) :
    e.nextCursor (k % e.panelWidth) (k / e.panelWidth) = rasterCursor e.panelWidth e.panelHeight (k + 1) := by
  have hw : 0 < e.panelWidth := Nat.succ_pos _
  have hline : k / e.panelWidth < e.panelHeight := Nat.div_lt_of_lt_mul hk
  have hk_eq := Nat.mod_add_div k e.panelWidth
  unfold Engine.nextCursor
  split
  · next hcol =>
    have hnext : k + 1 = k % e.panelWidth + 1 + e.panelWidth * (k / e.panelWidth) := by omega
    rw [hnext, rasterCursor_at _ _ hcol, if_pos hline]
  · next hlast =>
    have hcol := Nat.mod_lt k hw
    have hnext : k + 1 = 0 + e.panelWidth * (k / e.panelWidth + 1) := by
      rw [Nat.mul_succ]
      omega
    rw [hnext, rasterCursor_at _ _ hw]

/-! ### One turn of the scan-out unit (rules R196, R209) -/

/-- A turn changes nothing, or emits the pixel at the cursor. -/
theorem scanTurn_eq_or (s : State) : scanTurn s = s ∨ ∃ px py, scanTurn s = s.scanPixel px py := by
  unfold scanTurn
  split
  · exact .inl rfl
  · next px py _ =>
    split
    · exact .inr ⟨px, py, rfl⟩
    · exact .inl rfl

theorem scanTurn_of_enabled {s : State} {px py : Nat} (hcur : s.engine.cur = .at px py) (hfault : s.port.fault = none)
    (hon : s.scanEnabled = true) : scanTurn s = s.scanPixel px py := by
  simp [scanTurn, hcur, State.not_faulted_of_none hfault, hon]

theorem State.scanEnabled_iff (s : State) : s.scanEnabled = true ↔
    bit s.engine.regs.ctrl 0 = true ∧ s.power.pixclkOn = true ∧ s.power.busclkOn = true := by
  rw [State.scanEnabled, Bool.and_eq_true, Bool.and_eq_true, and_assoc]
  rfl

/-! ### A frame (rules R195, R196) -/

/-- The scan-out unit may emit, and stands where it is after `k` pixels of the frame. -/
structure State.ScansAt (s : State) (k : Nat) : Prop where
  enabled : s.scanEnabled = true
  faultless : s.port.fault = none
  cursor : s.engine.cur = rasterCursor s.engine.panelWidth s.engine.panelHeight k

theorem State.ScansAt.scanTurn_eq {s : State} {k : Nat} (hs : s.ScansAt k)
    (hk : k < s.engine.panelWidth * s.engine.panelHeight) :
    scanTurn s = s.scanPixel (k % s.engine.panelWidth) (k / s.engine.panelWidth) :=
  scanTurn_of_enabled (hs.cursor.trans (rasterCursor_of_lt hk)) hs.faultless hs.enabled

/-- The turn that emits pixel `k` leaves the unit at pixel `k + 1`. -/
theorem State.ScansAt.succ {s : State} {k : Nat} (hs : s.ScansAt k)
    (hk : k < s.engine.panelWidth * s.engine.panelHeight) : (scanTurn s).ScansAt (k + 1) := by
  rw [hs.scanTurn_eq hk]
  exact ⟨hs.enabled, hs.faultless, s.engine.nextCursor_raster hk⟩

/-- `t` is `s` after `k` turns of one frame: it stands at pixel `k` of the same panel, with `k` pixels more sent out. -/
structure FrameAt (s : State) (k : Nat) (t : State) : Prop where
  scans : t.ScansAt k
  regs : t.engine.regs = s.engine.regs
  frame : t.frame = s.frame
  sent : t.env.out.length = s.env.out.length + k

theorem FrameAt.panelWidth_eq {s t : State} {k : Nat} (h : FrameAt s k t) :
    t.engine.panelWidth = s.engine.panelWidth := by
  rw [Engine.panelWidth, Engine.panelWidth, h.regs]

theorem FrameAt.panelHeight_eq {s t : State} {k : Nat} (h : FrameAt s k t) :
    t.engine.panelHeight = s.engine.panelHeight := by
  rw [Engine.panelHeight, Engine.panelHeight, h.regs]

/-- Within the frame the turn emits pixel `k` (rule R196). -/
theorem FrameAt.scanTurn_eq {s t : State} {k : Nat} (h : FrameAt s k t)
    (hk : k < s.engine.panelWidth * s.engine.panelHeight) :
    scanTurn t = t.scanPixel (k % s.engine.panelWidth) (k / s.engine.panelWidth) := by
  rw [h.scans.scanTurn_eq (by rwa [h.panelWidth_eq, h.panelHeight_eq]), h.panelWidth_eq]

theorem FrameAt.succ {s t : State} {k : Nat} (h : FrameAt s k t)
    (hk : k < s.engine.panelWidth * s.engine.panelHeight) : FrameAt s (k + 1) (scanTurn t) := by
  have hscans := h.scans.succ (by rwa [h.panelWidth_eq, h.panelHeight_eq])
  rw [h.scanTurn_eq hk] at hscans ⊢
  refine ⟨hscans, h.regs, h.frame, ?_⟩
  rw [State.scanPixel_env_out, List.length_cons, h.sent, Nat.add_assoc]

theorem frameAt_iterate {s : State} (h : s.ScansAt 0) (k : Nat)
    (hk : k ≤ s.engine.panelWidth * s.engine.panelHeight) : FrameAt s k (scanTurn^[k] s) := by
  induction k with
  | zero => exact ⟨h, rfl, rfl, rfl⟩
  | succ k ih =>
    rw [Function.iterate_succ_apply']
    exact (ih (Nat.le_of_succ_le hk)).succ hk

/-- Settles O48: by induction on the turns the cursor goes through the raster, and each turn emits the pixel there. -/
theorem fullFrame : Obligations.FullFrame := by
  refine ⟨fun s w h hcur hout hpix hbus hfault hw hh => ?frame, fun s => ⟨scanTurn s, rfl, ?reads⟩⟩
  case frame =>
    rw [← s.engine.panelWidth_eq] at hw
    rw [← s.engine.panelHeight_eq] at hh
    subst hw hh
    have hpanel : 0 < s.engine.panelWidth * s.engine.panelHeight := Nat.mul_pos (Nat.succ_pos _) (Nat.succ_pos _)
    have hstart : s.ScansAt 0 :=
      ⟨s.scanEnabled_iff.mpr ⟨hout, hpix, hbus⟩, hfault, by
        rw [hcur, rasterCursor_of_lt hpanel, Nat.zero_mod, Nat.zero_div]⟩
    have hend := frameAt_iterate hstart _ le_rfl
    refine ⟨?idle, hend.sent, fun k hk => ⟨?cursor, ?pixel⟩⟩
    case idle => rw [hend.scans.cursor, hend.panelWidth_eq, hend.panelHeight_eq, rasterCursor_end]
    case cursor =>
      have hat := frameAt_iterate hstart k hk.le
      rw [hat.scans.cursor, hat.panelWidth_eq, hat.panelHeight_eq, rasterCursor_of_lt hk]
    case pixel =>
      have hat := frameAt_iterate hstart k hk.le
      rw [Function.iterate_succ_apply', hat.scanTurn_eq hk, State.scanPixel_env_out, List.head?_cons, hat.frame]
  case reads =>
    rcases scanTurn_eq_or s with hidle | ⟨px, py, hpixel⟩
    · rw [hidle]
    · rw [hpixel]
      rfl

end Sys2Proof.Machine
end

-- ==== Vsync waits ====
section
/-! PROOFS. What one TICK and several of them do to a waiter slot; VWAIT on a slot that is Waiting and on one that is not
(rules R111, R218, R220). -/

namespace Sys2Proof.Machine

variable {s : State}

/-! ### One slot (rule R220) -/

theorem Waiter.tick_rem_zero {w : Waiter} (hw : w.state = .waiting) (count : Word) :
    Waiter.tick { w with rem := 0 } count = { w with state := .timedOut, rem := 0, val := count } := by
  rw [Waiter.tick, if_pos hw, if_pos rfl]

theorem Waiter.tick_rem_ne_zero {w : Waiter} (hw : w.state = .waiting) {r : Word} (hr : r ≠ 0) (count : Word) :
    Waiter.tick { w with rem := r } count = { w with rem := r - 1 } := by
  rw [Waiter.tick, if_pos hw, if_neg hr]

/-- While the remaining ticks last, each TICK takes one of them and nothing else of the slot. -/
theorem Waiter.tick_iterate {w : Waiter} (hw : w.state = .waiting) (count : Word) {n : Nat} (hn : n ≤ w.rem.toNat) :
    (fun u => Waiter.tick u count)^[n] w = { w with rem := w.rem - BitVec.ofNat 32 n } := by
  induction n with
  | zero => rw [BitVec.sub_zero]; rfl
  | succ n ih =>
    have hrem : w.rem - BitVec.ofNat 32 n ≠ 0 := by bv_omega
    rw [Function.iterate_succ_apply', ih (Nat.le_of_succ_le hn), Waiter.tick_rem_ne_zero hw hrem, BitVec.sub_sub,
      BitVec.ofNat_add, BitVec.ofNat_eq_ofNat]

/-- The TICK after the last remaining one times the wait out. -/
theorem Waiter.tick_iterate_rem_succ {w : Waiter} (hw : w.state = .waiting) (count : Word) :
    (fun u => Waiter.tick u count)^[w.rem.toNat + 1] w = { w with state := .timedOut, rem := 0, val := count } := by
  have hrem : w.rem - BitVec.ofNat 32 w.rem.toNat = 0 := by bv_omega
  rw [Function.iterate_succ_apply', Waiter.tick_iterate hw count le_rfl, hrem, Waiter.tick_rem_zero hw]

/-! ### The slots of the block (rule R220) -/

theorem tickTurn_of_unfaulted (h : s.port.fault = none) : tickTurn s = s.tick :=
  if_neg (by simp [State.not_faulted_of_none h])

theorem State.tick_waiter (s : State) (k : Fin Config.nslot) :
    s.tick.vsync.waiters[k] = s.vsync.waiters[k].tick s.vsync.vscount :=
  Vector.getElem_map _ k.isLt

/-- TICKs leave VSCOUNT alone, so each of them ticks the slot with the same count. -/
theorem State.ticked_waiter (n : Nat) (s : State) (k : Fin Config.nslot) :
    (State.ticked n s).vsync.waiters[k] = (fun w => Waiter.tick w s.vsync.vscount)^[n] s.vsync.waiters[k] := by
  induction n with
  | zero => rfl
  | succ n ih => rw [State.ticked_succ, State.tick_waiter, State.ticked_vscount, ih, Function.iterate_succ_apply']

/-- Settles O37: by induction on the TICKs each takes one remaining tick of a wait, and the next after the last one times it
out. -/
theorem tickAndTimeout : Obligations.TickAndTimeout := by
  refine ⟨fun s hfault => ?turn, fun s k hw => ⟨fun n hn => ?waits, ?timesOut⟩⟩
  case turn => exact congrArg Host.Outcome.next (tickTurn_of_unfaulted hfault)
  case waits => rw [State.ticked_waiter, Waiter.tick_iterate hw _ hn, hw]
  case timesOut => rw [State.ticked_waiter, Waiter.tick_iterate_rem_succ hw]

/-! ### VWAIT (rules R111, R218) -/

theorem exec_vwait_slot (s : State) (k : Fin Config.nslot) : exec (.vwait k.val) s = vwaitOn s k := by
  rw [exec_vwait, execVwait, Fin.ofNat_val_eq_self]

theorem vwaitOn_waiting {k : Fin Config.nslot} (hw : s.vsync.waiters[k].state = .waiting) :
    vwaitOn s k = .next (s.finish .illegalCommand 0) := if_pos hw

theorem vwaitOn_not_waiting {k : Fin Config.nslot} (hw : s.vsync.waiters[k].state ≠ .waiting) :
    vwaitOn s k = .next ((s.armSlot k s.port.latch[0]).finish .ok s.vsync.vscount) := if_neg hw

/-- Settles O34: a Waiting slot refuses; any other is armed in the one micro-step, and the count is the answer. -/
theorem vwaitCommand : Obligations.VwaitCommand := by
  intro s k
  rw [exec_vwait_slot]
  exact ⟨vwaitOn_waiting, vwaitOn_not_waiting⟩

end Sys2Proof.Machine
end

-- ==== The clock bits ====
section
/-! PROOFS. What a step can do to the two clock bits (rule R231): leave both, or turn both on or both off. -/

namespace Sys2Proof.Machine

/-- How the clock bits can move: not at all, both on, or both off (rule R231). -/
inductive ClocksMove (p q : Power) : Prop
  | kept (hb : q.busclkOn = p.busclkOn) (hx : q.pixclkOn = p.pixclkOn)
  | on (h : q.clocksOn)
  | off (h : q.clocksOff)

theorem ClocksMove.of_eq {p q : Power} (h : q = p) : ClocksMove p q := h ▸ .kept rfl rfl

theorem ClocksMove.together {p q : Power} (h : ClocksMove p q) (hp : p.busclkOn = p.pixclkOn) :
    q.busclkOn = q.pixclkOn := by
  cases h with
  | kept hb hx => rw [hb, hx, hp]
  | on h => obtain ⟨hb, hx⟩ := h; rw [hb, hx]
  | off h => obtain ⟨hb, hx⟩ := h; rw [hb, hx]

/-! ### Every agent (rules R231, R232, R237) -/

/-- RESM s3 turns the clocks on, SUSP s6 and RESM's fail path turn them off, and no other micro-step moves them. -/
theorem microStep_clocks (op : MicroOp) (s : State) : ClocksMove s.power (microStep op s).1.power := by
  cases op with
  | clocksOn => exact .on ⟨rfl, rfl⟩
  | gateWhenSettled | gateFailed => exact .off ⟨rfl, rfl⟩
  | regHardware r v =>
    show ClocksMove s.power (microRegHardware s r v).1.power
    unfold microRegHardware
    split <;> exact .kept rfl rfl
  | palWrite i k v =>
    show ClocksMove s.power (microPalWrite s i k v).1.power
    unfold microPalWrite
    split
    · exact .of_eq (State.palWrite_power ..)
    · exact .kept rfl rfl
  | zeroFill a n => cases n <;> exact .kept rfl rfl
  | pollReady =>
    show ClocksMove s.power (microPoll s).1.power
    unfold microPoll
    split <;> exact .kept rfl rfl
  | rederive =>
    show ClocksMove s.power (microRederive s).1.power
    unfold microRederive
    split
    · split <;> exact .kept rfl rfl
    · exact .kept rfl rfl
  | _ => exact .kept rfl rfl

theorem sequencerStep_clocks (op : MicroOp) (rest : List MicroOp) (s : State) :
    ClocksMove s.power (sequencerStep op rest s).power := by
  obtain ⟨c, hc⟩ := sequencerStep_eq op rest s
  rw [hc]
  exact microStep_clocks op s

theorem handlerStep_clocks (op : MicroOp) (rest : List MicroOp) (s : State) :
    ClocksMove s.power (handlerStep op rest s).power := by
  obtain ⟨c, hc⟩ := handlerStep_eq op rest s
  rw [hc]
  exact microStep_clocks op s

/-- The power sequencer is no register that the host writes (rule R79). -/
theorem State.writePort_power (s : State) (o : Nat) (v : Word) : (s.writePort o v).power = s.power := by
  rcases writePort_cases s o v with hw | ⟨-, hw⟩ | ⟨-, ⟨k, hw⟩ | hw | ⟨-, r, hw⟩⟩ <;> rw [hw]
  rcases doorbell_cases s v with hd | ⟨-, -, hd⟩ <;> rw [hd]
  rfl

theorem hostWrite_power {s t : State} {w : Width} {o : Nat} {v : Word} (h : s.hostWrite w o v = .next t) :
    t.power = s.power := by
  rcases hostWrite_next h with rfl | ⟨-, rfl⟩ | rfl
  · rfl
  · rfl
  · exact s.writePort_power o v

theorem eventStep_clocks {e : Event} {s t : State} (he : eventStep e s = .next t) : ClocksMove s.power t.power := by
  cases e with
  | sequencer =>
    cases he
    rcases sequencerTurn_cases s with hs | ⟨op, rest, -, -, -, hs⟩ <;> rw [hs]
    · exact .kept rfl rfl
    · exact sequencerStep_clocks op rest s
  | handler =>
    cases he
    rcases handlerTurn_cases s with hs | ⟨-, -, -, hs⟩ | ⟨op, rest, -, -, hs⟩ <;> rw [hs]
    · exact .kept rfl rfl
    · exact .kept rfl rfl
    · exact handlerStep_clocks op rest s
  | frameStart =>
    cases he
    unfold frameTurn
    split <;> exact .kept rfl rfl
  | scanOut =>
    cases he
    obtain ⟨-, hpower, -⟩ := scanTurn_cases s
    exact .of_eq hpower
  | tick =>
    cases he
    unfold tickTurn
    split <;> exact .kept rfl rfl
  | hostRead w o => rcases hostRead_next he with rfl | ⟨x, rfl⟩ <;> exact .kept rfl rfl
  | hostWrite w o v => exact .of_eq (hostWrite_power he)
  | memRead a => cases he; exact .kept rfl rfl
  | memWrite u v => cases he; exact .kept rfl rfl
  | domainReady l => cases he; exact .kept rfl rfl
  | reset => cases he; exact .on ⟨rfl, rfl⟩

theorem autoStep_clocks {s t : State} (ha : autoStep s = some t) : ClocksMove s.power t.power := by
  obtain ⟨-, ⟨op, rest, -, rfl⟩ | ⟨-, op, rest, -, rfl | rfl⟩⟩ := autoStep_cases ha
  · exact handlerStep_clocks op rest s
  · exact .kept rfl rfl
  · exact sequencerStep_clocks op rest s

theorem clocksTogether_invariant : StepInvariant (fun _ => True) (fun s => s.power.busclkOn = s.power.pixclkOn) where
  scheduled _ _ _ h := h
  turned _ _ h := h
  event _ _ _ _ h he := (eventStep_clocks he).together h
  auto _ _ h ha := (autoStep_clocks ha).together h
  ends _ _ _ _ h he := by cases he <;> exact h
  launches _ _ _ _ h _ := h

/-- Settles O43: every micro-step and every choice moves both clock bits or neither. -/
theorem clockBitsStayTogether : Obligations.ClockBitsStayTogether :=
  fun _ _ h hst => clocksTogether_invariant.step (fun _ => trivial) (fun _ _ => trivial) h hst

end Sys2Proof.Machine
end

-- ==== Suspend, then resume ====
section
/-! PROOFS. The order of the snapshot, SUSP whole, and the round trip: what SUSP leaves for RESM, and RESM's writes as copies
of the registers that SUSP captured (rules R232 to R243). -/

namespace Sys2Proof.Machine

variable {s t a : State} {e : EngineRegs}

/-! ### SUSP whole (rules R232 to R236, R244) -/

/-- Settles O39: SUSP in Suspended, and SUSP run undisturbed from any other state. -/
theorem suspCommand : Obligations.SuspCommand := fun _ => ⟨susp_suspended, fun hp h => susp_undisturbed h hp⟩

/-! ### The order of the snapshot (rules R53, R233) -/

theorem mem_winRegOrder (f : WinReg) : f ∈ winRegOrder := by
  cases f <;> decide

theorem mem_windowIds_iff (i : Win) (r : RegId) :
    r ∈ windowIds i ↔ ∃ f : WinReg, f.presentOn i = true ∧ r = .win i f := by
  simp only [windowIds, List.mem_map, List.mem_filter, mem_winRegOrder, true_and, eq_comm]

theorem mem_shadowIds_iff (r : RegId) : r ∈ shadowIds ↔ r.present = true := by
  simp only [shadowIds, List.mem_append, List.mem_flatMap, List.mem_finRange, true_and, mem_windowIds_iff]
  cases r with
  | win i f =>
    have hglobal : RegId.win i f ∉ globalIds := by simp [globalIds]
    simp [hglobal, RegId.present]
  | _ => simp [globalIds, RegId.present]

theorem snapshotList_some (e : EngineRegs) : snapshotList (some e) = shadowIds.map fun r => (r, e.get r) := rfl

/-- Settles O42: the ids of the list are the registers that exist, and the snapshot pairs each with its value. -/
theorem snapshotOrder : Obligations.SnapshotOrder := by
  refine ⟨length_shadowIds, by decide, mem_shadowIds_iff, fun e => ⟨?_, ?_⟩⟩
  · rw [snapshotList_some, List.map_map]
    exact List.map_id shadowIds
  · intro p hp
    obtain ⟨r, -, rfl⟩ := List.mem_map.mp hp
    rfl

/-! ### What SUSP leaves for RESM (rules R232, R236) -/

/-- What a resume reads of the block that SUSP has left, and what it leaves as it is. -/
structure SuspendedFrom (s a : State) : Prop where
  undisturbed : a.undisturbed
  pstate : a.power.pstate = .suspended
  snapshot : a.power.snapshot = some s.shadow
  configured : a.port.configured = s.port.configured
  cfg : a.cfg = s.cfg
  ready : a.env.domainReady = s.env.domainReady
  hwwrcnt : a.hwwrcnt = s.hwwrcnt
  mem : a.env.mem = s.env.mem
  windows : a.windows = s.windows
  pend : a.pend = s.pend
  vscount : a.vsync.vscount = s.vsync.vscount

theorem susp_leaves (h : s.undisturbed) (hp : s.power.pstate ≠ .suspended) (he : exec .susp s = .next a) :
    SuspendedFrom s a := by
  rw [susp_undisturbed h hp] at he
  cases he
  obtain ⟨hfault, hidle, hschedule⟩ := h
  exact ⟨⟨hfault, (State.ticked_handler _ s).trans hidle, hschedule⟩, rfl, rfl, rfl, rfl, rfl, rfl, rfl, rfl, rfl,
    State.ticked_vscount _ s⟩

/-! ### Registers that hold given values -/

/-- Every shadowed register holds the value of `e`, in the shadow and in the hardware. -/
def State.Holds (s : State) (e : EngineRegs) : Prop :=
  ∀ r ∈ shadowIds, s.shadow.get r = e.get r ∧ s.engine.regs.get r = e.get r

theorem State.Holds.regWrite (h : s.Holds e) (r : RegId) (v : Word) : (s.regWrite r v).Holds (e.put r v) := by
  intro q hq
  obtain ⟨hshadow, hregs⟩ := h q hq
  rw [(s.regWrite_get r q v).1, (s.regWrite_get r q v).2, e.get_put, hshadow, hregs]
  exact ⟨rfl, rfl⟩

theorem EngineRegs.get_put_get (e : EngineRegs) (r q : RegId) : (e.put r (e.get r)).get q = e.get q := by
  rw [EngineRegs.get_put]
  split
  · rename_i h; rw [h]
  · rfl

/-- Writing the value that is already there. -/
theorem State.Holds.regWrite_same (h : s.Holds e) {r : RegId} {v : Word} (hv : v = e.get r) : (s.regWrite r v).Holds e := by
  intro q hq
  have hwrite := h.regWrite r v q hq
  rw [hv, e.get_put_get] at hwrite
  rw [hv]
  exact hwrite

theorem State.Holds.writeAll (h : s.Holds e) {l : List (RegId × Word)} (hl : ∀ w ∈ l, w.2 = e.get w.1) :
    (s.writeAll l).Holds e := by
  induction l generalizing s with
  | nil => exact h
  | cons w l ih => exact ih (h.regWrite_same (hl w (by simp))) fun x hx => hl x (by simp [hx])

/-- Writing every shadowed register. -/
theorem State.holds_writeAll (s : State) (e : EngineRegs) : (s.writeAll (shadowIds.map fun r => (r, e.get r))).Holds e := by
  intro r hr
  rw [(State.writeAll_get _ r).1, (State.writeAll_get _ r).2, lastWrite_map e.get hr]
  exact ⟨rfl, rfl⟩

/-! ### RESM's writes (rules R237 to R241) -/

/-- The registers with output off (rule R239). -/
def EngineRegs.outputOff (e : EngineRegs) : EngineRegs := e.put .ctrl (e.ctrl &&& ~~~0x00000001#32)

theorem EngineRegs.outputOff_get (e : EngineRegs) (r : RegId) :
    e.outputOff.get r = if r = .ctrl then e.get r &&& ~~~0x00000001#32 else e.get r := by
  rw [EngineRegs.outputOff, EngineRegs.get_put]
  split
  · rename_i h; rw [h]; rfl
  · rfl

/-- Turning output off and on again as the snapshot says (rules R237 s7, R240). -/
theorem EngineRegs.outputOff_put_ctrl (e : EngineRegs) :
    e.outputOff.put .ctrl (e.outputOff.ctrl ||| (e.ctrl &&& 0x00000001#32)) = e := by
  have hctrl : (e.ctrl &&& ~~~0x00000001#32) ||| (e.ctrl &&& 0x00000001#32) = e.ctrl := by
    rw [← BitVec.and_or_distrib_left]
    simp
  show ({ e with ctrl := (e.ctrl &&& ~~~0x00000001#32) ||| (e.ctrl &&& 0x00000001#32) } : EngineRegs) = e
  rw [hctrl]

theorem word_and_not_two {v : Word} (h : bit v 1 = false) : v &&& ~~~0x00000002#32 = v := by
  apply BitVec.eq_of_getLsbD_eq
  intro n hn
  by_cases h1 : n = 1
  · subst h1
    have hv : v.getLsbD 1 = false := h
    rw [BitVec.getLsbD_and, hv, Bool.false_and]
  · have hkeep : (~~~0x00000002#32).getLsbD n = true := by
      revert n
      decide
    rw [BitVec.getLsbD_and, hkeep, Bool.and_true]

/-- Hardwired bits that are 0 are restored as they are (rule R31). -/
theorem EngineRegs.OneSurface.wired_get (h : e.OneSurface) (r : RegId) : r.wired (e.get r) = e.get r := by
  cases r with
  | win i f =>
    by_cases hf : f = .ctl
    · subst hf
      rw [RegId.wired_ctl]
      split
      · exact word_and_not_two (h i ‹_›)
      · rfl
    · exact RegId.wired_win_ne_ctl i hf _
  | _ => rfl

/-- RESM s5 copies the snapshot, output off. -/
theorem restoreList_eq (h : e.OneSurface) : restoreList e = shadowIds.map fun r => (r, e.outputOff.get r) := by
  refine List.map_congr_left fun r _ => ?_
  rw [e.outputOff_get]
  split
  · rename_i hr; rw [hr]; rfl
  · rw [h.wired_get]

/-- The timing registers of `e` hold the calculator's results (rule R140). -/
def TimingImage.StandsIn (t : TimingImage) (e : EngineRegs) : Prop :=
  e.ctrl &&& 0x0000FF00#32 = word t.clkval <<< 8 ∧ e.timv = t.timv ∧ e.timh = t.timh ∧ e.timsize = t.timsize
    ∧ e.timpol = t.timpol ∧ e.dither = t.dither

/-- The calculator's results, whether or not there is a configuration to derive them from (rule R241). -/
theorem State.timingHolds.image (h : s.timingHolds) :
    ∃ tm : TimingImage, s.port.configured = true → s.cfg.timingCalc = some tm ∧ tm.StandsIn s.shadow := by
  cases hc : s.port.configured with
  | false => exact ⟨⟨0, 0, 0, 0, 0, 0, 0⟩, fun h => by cases h⟩
  | true =>
    obtain ⟨tm, hcalc, hstands⟩ := h hc
    exact ⟨tm, fun _ => ⟨hcalc, hstands⟩⟩

/-- RESM s6 writes the values that s5 has just restored. -/
theorem State.Holds.rederived (h : s.Holds e.outputOff) {tm : TimingImage}
    (ht : s.port.configured = true → tm.StandsIn e) : (s.rederived tm).Holds e.outputOff := by
  rw [State.rederived_eq]
  refine h.writeAll fun w hw => ?_
  split at hw
  · obtain ⟨hclkval, hv, hh, hsize, hpol, hdither⟩ := ht ‹_›
    have hshadow : s.shadow.ctrl = e.ctrl &&& ~~~0x00000001#32 := (h .ctrl (by decide)).1
    have hctrl : (s.shadow.ctrl &&& 0xFFFF00FE#32) ||| (word tm.clkval <<< 8) = e.ctrl &&& ~~~0x00000001#32 := by
      rw [hshadow, ← hclkval, BitVec.and_assoc, ← BitVec.and_or_distrib_left]
      rfl
    simp only [timingList, List.mem_cons, List.not_mem_nil, or_false] at hw
    rcases hw with rfl | rfl | rfl | rfl | rfl | rfl
    · exact hctrl
    · exact hv.symm
    · exact hh.symm
    · exact hsize.symm
    · exact hpol.symm
    · exact hdither.symm
  · cases hw

/-- RESM from a snapshot with the timing registers that the calculator gives restores the snapshot. -/
theorem State.holds_resumed (s : State) (he : e.OneSurface) {tm : TimingImage}
    (ht : s.port.configured = true → tm.StandsIn e) : (s.resumed (some e) tm).Holds e := by
  have hrestored : (s.writeAll (restoreList e)).Holds e.outputOff := by
    rw [restoreList_eq he]
    exact s.holds_writeAll e.outputOff
  have hrederived := hrestored.rederived (tm := tm) (by rw [State.writeAll_port]; exact ht)
  have hctrl : ((s.writeAll (restoreList e)).rederived tm).shadow.ctrl = e.outputOff.ctrl :=
    (hrederived .ctrl (by decide)).1
  have hlast := hrederived.regWrite .ctrl (e.outputOff.ctrl ||| (e.ctrl &&& 0x00000001#32))
  rw [e.outputOff_put_ctrl, ← hctrl] at hlast
  exact hlast

/-- RESM counts 51 writes of the restore, six of the re-derivation and the last one of CTRL (rules R29, R237). -/
theorem State.resumed_hwwrcnt (s : State) (e : EngineRegs) (tm : TimingImage) :
    (s.resumed (some e) tm).hwwrcnt = s.hwwrcnt + (if s.port.configured then 58 else 52) := by
  have hlen : (restoreList e).length = 51 := (List.length_map _).trans length_shadowIds
  show ((s.writeAll (restoreList e)).rederived tm).hwwrcnt + 1 = _
  rw [State.rederived_eq, State.writeAll_hwwrcnt, State.writeAll_hwwrcnt, hlen, State.writeAll_port, BitVec.add_assoc,
    BitVec.add_assoc]
  split <;> rfl

theorem State.resumed_kept (s : State) (snap : Option EngineRegs) (tm : TimingImage) :
    (s.resumed snap tm).env = s.env ∧ (s.resumed snap tm).windows = s.windows ∧ (s.resumed snap tm).pend = s.pend
      ∧ (s.resumed snap tm).vsync = s.vsync := by
  generalize hr : (s.writeAll (restoreWrites snap)).rederived tm = r
  have hkept : r.env = s.env ∧ r.windows = s.windows ∧ r.pend = s.pend ∧ r.vsync = s.vsync := by
    rw [← hr, State.rederived_eq]
    simp
  rw [State.resumed, hr]
  exact hkept

/-! ### The round trip (rule R243) -/

/-- Settles O41: RESM copies back what SUSP captured, and the re-derivation writes what the copy already holds. -/
theorem suspendResumeRoundTrip : Obligations.SuspendResumeRoundTrip := by
  intro s a hlegal hu hactive htiming hready hsusp
  have ha : SuspendedFrom s a := susp_leaves hu (by rw [hactive]; decide) hsusp
  obtain ⟨tm, htm⟩ := htiming.image
  have hcalc : a.port.configured = true → a.cfg.timingCalc = some tm := by
    rw [ha.configured, ha.cfg]
    exact fun hc => (htm hc).1
  have hstands : a.port.configured = true → tm.StandsIn s.shadow := by
    rw [ha.configured]
    exact fun hc => (htm hc).2
  have hresm := resm_resumes ha.undisturbed (by rw [ha.pstate]; decide) (ha.ready.trans hready) hcalc
  rw [ha.snapshot] at hresm
  obtain ⟨henv, hwindows, hpend, hvsync⟩ := a.powered.resumed_kept (some s.shadow) tm
  refine ⟨_, hresm, rfl, rfl, a.powered.holds_resumed hlegal.oneSurface hstands, ?_, ?_, hwindows.trans ha.windows,
    hpend.trans ha.pend, ?_⟩
  · rw [State.resumed_hwwrcnt]
    show a.hwwrcnt + (if a.port.configured then 58 else 52) = _
    rw [ha.hwwrcnt, ha.configured]
  · rw [henv]
    exact ha.mem
  · rw [hvsync]
    exact ha.vscount

end Sys2Proof.Machine
end

-- ==== Each agent's own micro-steps ====
section
/-! PROOFS. What every micro-step lays out, and from it that the sequencer never holds a micro-step of the handler's and the
handler none of a command's (rules R262, R265). -/

namespace Sys2Proof.Machine

/-! ### What a micro-step lays out (rules R40, R187, R237, R262) -/

/-- The micro-steps that a micro-step gives its agent to take next. -/
def Flow.laidOut : Flow → List MicroOp
  | .go first => first
  | .jump instead => instead
  | .done => []
  | .halt => []

theorem MicroOp.handlerOnly_of_shared {op : MicroOp} (h : op.shared = true) : op.handlerOnly = false := by
  cases op with
  | regShadow | regHardware | regUnmask | palWrite | flushStart | flushClear => rfl
  | _ => cases h

theorem shared_flushSteps (s : State) (i : Win) : ∀ o ∈ s.flushSteps i, o.shared = true := by
  intro o ho
  simp only [State.flushSteps, List.mem_append, List.mem_map, List.mem_cons, List.not_mem_nil, or_false] at ho
  rcases ho with (rfl | ⟨e, -, rfl⟩) | rfl | rfl <;> rfl

/-- `RegWrite`, `PalWrite` and `Flush` lay out only one another. -/
theorem microStep_shared {op : MicroOp} (h : op.shared = true) (s : State) :
    ∀ o ∈ (microStep op s).2.laidOut, o.shared = true := by
  cases op with
  | regShadow r keep set => simp [microStep, Flow.laidOut, MicroOp.shared]
  | regHardware r v =>
    show ∀ o ∈ (microRegHardware s r v).2.laidOut, _
    unfold microRegHardware
    split <;> simp [Flow.laidOut]
  | regUnmask => simp [microStep, Flow.laidOut]
  | palWrite i k v =>
    show ∀ o ∈ (microPalWrite s i k v).2.laidOut, _
    unfold microPalWrite
    split <;> simp [Flow.laidOut]
  | flushStart i =>
    show ∀ o ∈ (if s.pend.dirty[i] then s.flushSteps i else []), o.shared = true
    split
    · exact shared_flushSteps s i
    · simp
  | flushClear i => simp [microStep, Flow.laidOut]
  | _ => cases h

/-- RESM's writes of the calculator's results are `RegWrite`s. -/
theorem shared_timingWrites (t : TimingImage) (keep : Word) : ∀ o ∈ timingWrites t keep, o.shared = true := by
  simp [timingWrites, regUpdateSteps, regWriteSteps, MicroOp.shared]

/-- RESM's restore holds nothing of the handler's. -/
theorem handlerOnly_resumeSteps (snap : Option EngineRegs) : ∀ o ∈ resumeSteps snap, o.handlerOnly = false := by
  intro o ho
  simp only [resumeSteps, regUpdateSteps, List.mem_append, List.mem_flatMap, List.mem_cons, List.not_mem_nil,
    or_false] at ho
  rcases ho with ((⟨e, -, he⟩ | rfl) | rfl) | rfl | rfl
  case inl.inl.inl =>
    unfold restoreSteps at he
    split at he
    all_goals
      rw [regWriteSteps, List.mem_singleton] at he
      subst he
      rfl
  all_goals rfl

/-- No micro-step of a command lays out one of the handler's. -/
theorem microStep_ofCommand {op : MicroOp} (h : op.handlerOnly = false) (s : State) :
    ∀ o ∈ (microStep op s).2.laidOut, o.handlerOnly = false := by
  by_cases hshared : op.shared = true
  · exact fun o ho => MicroOp.handlerOnly_of_shared (microStep_shared hshared s o ho)
  cases op with
  | zeroFill addr left =>
    cases left with
    | zero => simp [microStep, microZeroFill, Flow.laidOut]
    | succ n =>
      show ∀ o ∈ (if n = 0 then [] else [MicroOp.zeroFill (addr + 1) n]), o.handlerOnly = false
      split <;> simp [MicroOp.handlerOnly]
  | pollReady =>
    show ∀ o ∈ (microPoll s).2.laidOut, _
    unfold microPoll
    split
    · exact handlerOnly_resumeSteps s.power.snapshot
    · split <;> simp [Flow.laidOut, resumeFailSteps, MicroOp.handlerOnly]
  | rederive =>
    show ∀ o ∈ (microRederive s).2.laidOut, _
    unfold microRederive
    split
    · split
      · exact fun o ho => MicroOp.handlerOnly_of_shared (shared_timingWrites _ _ o ho)
      · simp [Flow.laidOut, resumeFailSteps, MicroOp.handlerOnly]
    · simp [Flow.laidOut]
  | regShadow | regHardware | regUnmask | palWrite | flushStart | flushClear => exact absurd rfl hshared
  | countVsync | wakeWaiters | serveFlush | clearRequest | handlerReturn => cases h
  | _ => exact fun _ ho => (nomatch ho)

/-- The handler's micro-steps lay out its own and the shared ones. -/
theorem microStep_ofHandler {op : MicroOp} (h : op.handlerOnly = true ∨ op.shared = true) (s : State) :
    ∀ o ∈ (microStep op s).2.laidOut, o.handlerOnly = true ∨ o.shared = true := by
  rcases h with hown | hshared
  · cases op with
    | serveFlush i =>
      show ∀ o ∈ (if s.pend.request[i] then [MicroOp.flushStart i, .clearRequest i] else []),
        o.handlerOnly = true ∨ o.shared = true
      split <;> simp [MicroOp.handlerOnly, MicroOp.shared]
    | countVsync | wakeWaiters | clearRequest | handlerReturn => exact fun _ ho => (nomatch ho)
    | _ => cases hown
  · exact fun o ho => .inr (microStep_shared hshared s o ho)

/-! ### What each agent has left -/

/-- The sequencer's micro-step leaves it what it has laid out and what it had. -/
theorem sequencerStep_todo {op : MicroOp} {rest : List MicroOp} {s : State} (hq : s.port.csq = .running (op :: rest)) :
    (sequencerStep op rest s).vsync.handler = s.vsync.handler
      ∧ ∀ o ∈ (sequencerStep op rest s).port.csq.todo, o ∈ (microStep op s).2.laidOut ∨ o ∈ s.port.csq.todo := by
  obtain ⟨hhandler, hcsq⟩ := microStep_agents op s
  unfold sequencerStep
  rw [hq]
  rcases hm : microStep op s with ⟨u, first | instead | _ | _⟩ <;> rw [hm] at hhandler hcsq
  · refine ⟨hhandler, fun o ho => ?_⟩
    rcases List.mem_append.mp ho with ho | ho
    · exact .inl ho
    · exact .inr (List.mem_cons_of_mem op ho)
  · exact ⟨hhandler, fun o ho => .inl ho⟩
  · exact ⟨hhandler, fun o ho => (nomatch ho)⟩
  · refine ⟨hhandler, fun o ho => .inr ?_⟩
    rcases hcsq with hsame | hidle
    · rw [hsame, hq] at ho; exact ho
    · rw [hidle] at ho; cases ho

/-- The handler's micro-step leaves it what it has laid out and what it had. -/
theorem handlerStep_todo {op : MicroOp} {rest : List MicroOp} {s : State}
    (hh : s.vsync.handler = .running (op :: rest)) :
    ∀ o ∈ (handlerStep op rest s).vsync.handler.todo,
      o ∈ (microStep op s).2.laidOut ∨ o ∈ s.vsync.handler.todo := by
  obtain ⟨hhandler, -⟩ := microStep_agents op s
  unfold handlerStep
  rw [hh]
  rcases hm : microStep op s with ⟨u, first | instead | _ | _⟩ <;> rw [hm] at hhandler
  · intro o ho
    rcases List.mem_append.mp ho with ho | ho
    · exact .inl ho
    · exact .inr (List.mem_cons_of_mem op ho)
  · exact fun o ho => .inl ho
  · exact fun o ho => (nomatch ho)
  · intro o ho
    rw [show u.vsync.handler = s.vsync.handler from hhandler, hh] at ho
    exact .inr ho

theorem State.agentsApart.of_same {s t : State} (h : s.agentsApart) (hq : t.port.csq = s.port.csq)
    (hv : t.vsync.handler = s.vsync.handler) : t.agentsApart := by
  unfold State.agentsApart
  rw [hq, hv]
  exact h

/-- An agent that has nothing left holds nothing of the other's. -/
theorem State.agentsApart.of_ended {s t : State} (h : s.agentsApart) (hq : t.port.csq.todo = [])
    (hv : t.vsync.handler = s.vsync.handler) : t.agentsApart := by
  unfold State.agentsApart
  rw [hq, hv]
  exact ⟨fun _ ho => (nomatch ho), h.2⟩

theorem sequencerStep_agentsApart {op : MicroOp} {rest : List MicroOp} {s : State} (h : s.agentsApart)
    (hq : s.port.csq = .running (op :: rest)) : (sequencerStep op rest s).agentsApart := by
  obtain ⟨hseq, hhandler⟩ := h
  obtain ⟨hsame, htodo⟩ := sequencerStep_todo hq
  have hop : op.handlerOnly = false := hseq op (by rw [hq]; exact List.mem_cons_self)
  refine ⟨fun o ho => ?_, by rw [hsame]; exact hhandler⟩
  rcases htodo o ho with hnew | hold
  · exact microStep_ofCommand hop s o hnew
  · exact hseq o hold

theorem handlerStep_agentsApart {op : MicroOp} {rest : List MicroOp} {s : State} (h : s.agentsApart)
    (hh : s.vsync.handler = .running (op :: rest)) : (handlerStep op rest s).agentsApart := by
  obtain ⟨hseq, hhandler⟩ := h
  have hop : op.handlerOnly = true ∨ op.shared = true := hhandler op (by rw [hh]; exact List.mem_cons_self)
  constructor
  · rcases handlerStep_csq op rest s with hq | hq <;> rw [hq]
    · exact hseq
    · exact fun _ ho => (nomatch ho)
  · intro o ho
    rcases handlerStep_todo hh o ho with hnew | hold
    · exact microStep_ofHandler hop s o hnew
    · exact hhandler o hold

theorem handlerEnter_agentsApart {s : State} (h : s.agentsApart) : s.handlerEnter.agentsApart := by
  refine ⟨h.1, fun o ho => .inl ?_⟩
  change o ∈ [.countVsync, .wakeWaiters] ++ (List.finRange Config.nwin).map MicroOp.serveFlush ++ [.handlerReturn] at ho
  simp only [List.mem_append, List.mem_map, List.mem_cons, List.not_mem_nil, or_false] at ho
  rcases ho with ((rfl | rfl) | ⟨i, -, rfl⟩) | rfl <;> rfl

/-! ### Runs after the start of a command -/

/-- A property of states that does not look at the world around the block and that every choice and every step taken with
nothing scheduled keep. Unlike `StepInvariant` it asks nothing of a command's first list of micro-steps, of which `LaysOut`
does not say whose they are. -/
structure RunInvariant (P : State → Prop) : Prop where
  env : ∀ (s : State) (env : Platform), P s → P { s with env := env }
  event : ∀ (e : Event) (s t : State), P s → eventStep e s = .next t → P t
  auto : ∀ s t : State, P s → autoStep s = some t → P t

namespace RunInvariant

variable {P : State → Prop} {s t : State}

theorem settleDown (h : RunInvariant P) (n : Nat) (hs : P s) : P (settleDown n s) := by
  induction n generalizing s with
  | zero => exact hs
  | succ n ih =>
    cases ha : autoStep s with
    | none => rw [settleDown_none ha]; exact hs
    | some t => rw [settleDown_succ ha]; exact ih (h.auto s t hs ha)

theorem runScheduled (h : RunInvariant P) (es : List Event) (hs : P s) (hr : runScheduled es s = .next t) : P t := by
  induction es generalizing s with
  | nil => cases hr; exact h.settleDown _ hs
  | cons e es ih =>
    unfold Machine.runScheduled at hr
    split at hr
    · split at hr
      · rename_i he
        exact ih (h.event e _ _ (h.env s _ hs) he) hr
      · cases hr
      · cases hr
    · cases hr; exact hs

/-- A step keeps the property when the start of a command does. -/
theorem step (h : RunInvariant P)
    (hstart : ∀ s t : State, s.commandWaits = true → P s → startCommand s = .next t → P t)
    (hs : P s) (hst : step s = .next t) : P t := by
  unfold Machine.step at hst
  split at hst
  · split at hst
    · cases hst
    · split at hst
      · exact hstart s t ‹_› hs hst
      · split at hst
        · cases hst; exact h.settleDown _ hs
        · exact h.event _ _ t (h.env s _ hs) hst
  · split at hst
    · rename_i hc
      simp only [Bool.and_eq_true] at hc
      exact hstart _ t (by exact hc.2) (h.env s _ hs) hst
    · exact h.event _ _ t (h.env s _ hs) hst

end RunInvariant

/-! ### Every choice -/

/-- The host's one way to the sequencer is the doorbell, which leaves it no micro-steps (rule R101). -/
theorem State.agentsApart.writePort {s : State} (h : s.agentsApart) (o : Nat) (v : Word) :
    (s.writePort o v).agentsApart := by
  rcases writePort_cases s o v with hw | ⟨-, hw⟩ | ⟨-, ⟨k, hw⟩ | hw | ⟨-, r, hw⟩⟩ <;> rw [hw]
  · exact h
  · rcases doorbell_cases s v with hd | ⟨-, -, hd⟩ <;> rw [hd]
    · exact h.of_same rfl rfl
    · exact h.of_ended rfl rfl
  all_goals exact h.of_same rfl rfl

theorem eventStep_agentsApart {e : Event} {s t : State} (h : s.agentsApart) (he : eventStep e s = .next t) :
    t.agentsApart := by
  cases e with
  | sequencer =>
    cases he
    rcases sequencerTurn_cases s with hs | ⟨op, rest, hq, -, -, hs⟩ <;> rw [hs]
    · exact h
    · exact sequencerStep_agentsApart h hq
  | handler =>
    cases he
    rcases handlerTurn_cases s with hs | ⟨-, -, -, hs⟩ | ⟨op, rest, -, hh, hs⟩ <;> rw [hs]
    · exact h
    · exact handlerEnter_agentsApart h
    · exact handlerStep_agentsApart h hh
  | frameStart =>
    cases he
    unfold frameTurn
    split
    · exact h.of_same rfl rfl
    · exact h
  | scanOut =>
    cases he
    obtain ⟨hport, -, -, -, hvsync⟩ := scanTurn_cases s
    exact h.of_same (by rw [hport]) (by rw [hvsync])
  | tick =>
    cases he
    unfold tickTurn
    split
    · exact h
    · exact h.of_same rfl rfl
  | hostRead w o => rcases hostRead_next he with rfl | ⟨x, rfl⟩ <;> exact h.of_same rfl rfl
  | hostWrite w o v =>
    rcases hostWrite_next he with rfl | ⟨-, rfl⟩ | rfl
    · exact h
    · exact h.of_same rfl rfl
    · exact h.writePort o v
  | memRead a => cases he; exact h.of_same rfl rfl
  | memWrite u v => cases he; exact h.of_same rfl rfl
  | domainReady l => cases he; exact h.of_same rfl rfl
  | reset => cases he; exact ⟨fun _ ho => (nomatch ho), fun _ ho => (nomatch ho)⟩

theorem autoStep_agentsApart {s t : State} (h : s.agentsApart) (ha : autoStep s = some t) : t.agentsApart := by
  obtain ⟨-, ⟨op, rest, hh, rfl⟩ | ⟨-, op, rest, hq, rfl | rfl⟩⟩ := autoStep_cases ha
  · exact handlerStep_agentsApart h hh
  · exact h.of_same rfl rfl
  · exact sequencerStep_agentsApart h hq

theorem agentsApart_invariant : RunInvariant State.agentsApart where
  env _ _ h := h
  event _ _ _ := eventStep_agentsApart
  auto _ _ := autoStep_agentsApart

/-! ### What a command lays out first (rule R100) -/

/-- What a command on a window does, for a window number that selects none and for one that selects a window. -/
theorem onWindow_elim {P : Host.Outcome State Fault Refusal → Prop} {s : State} {win : Nat}
    {f : Win → Host.Outcome State Fault Refusal} (hnone : P (reject s .invalidWindow))
    (h : ∀ k : Win, win = k.val → P (f k)) : P (onWindow s win f) := by
  rcases Nat.lt_or_ge win Config.nwin with hlt | hge
  · have hvalid := onWindow_valid (s := s) ⟨win, hlt⟩ f
    rw [hvalid]
    exact h ⟨win, hlt⟩ rfl
  · rw [onWindow_invalid hge]
    exact hnone

/-- What a palette command does, on another window than an Indexed8 one and on an Indexed8 one. -/
theorem onIndexed_elim {P : Host.Outcome State Fault Refusal → Prop} {s : State} {k : Win}
    {o : Host.Outcome State Fault Refusal} (hother : P (reject s .invalidFormat))
    (h : s.windows[k].format = some .indexed8 → P o) : P (onIndexed s k o) := by
  unfold onIndexed
  split
  · exact h ‹_›
  · exact hother

/-- How a command begins: it ends in its first micro-step, or lays out none of the handler's micro-steps. -/
inductive Begins (s : State) : Host.Outcome State Fault Refusal → Prop
  | ended {u : State} (hq : u.port.csq = .idle) (hv : u.vsync.handler = s.vsync.handler) : Begins s (.next u)
  | launched {steps : List MicroOp} (h : ∀ op ∈ steps, op.handlerOnly = false) : Begins s (launch s steps)

theorem Begins.rejected (s : State) (r : Result) : Begins s (reject s r) := .ended rfl rfl

theorem handlerOnly_timingSteps (t : TimingImage) : ∀ op ∈ timingSteps t, op.handlerOnly = false := by
  simp [timingSteps, timingWrites, regUpdateSteps, regWriteSteps, MicroOp.handlerOnly]

theorem handlerOnly_wpanSteps (s : State) (k : Win) (p : PanPlan) (y : Nat) :
    ∀ op ∈ wpanSteps s k p y, op.handlerOnly = false := by
  unfold wpanSteps bufselSteps
  split <;> simp [maskedSteps, regUpdateSteps, regWriteSteps, MicroOp.handlerOnly]

theorem handlerOnly_addressSteps (k : Win) (l : Layout) (base : Word) (db : Bool) :
    ∀ op ∈ addressSteps k l base db, op.handlerOnly = false := by
  unfold addressSteps
  split <;> simp [maskedSteps, regUpdateSteps, regWriteSteps, MicroOp.handlerOnly]

theorem handlerOnly_programSteps (k : Win) (f : Format) (l : Layout) (a : WcfgArgs) (se : Bool) (b : Option Blend) :
    ∀ op ∈ programSteps k f l a se b, op.handlerOnly = false := by
  unfold programSteps
  split <;> split <;> simp [regWriteSteps, MicroOp.handlerOnly]

theorem handlerOnly_wcfgSteps (s : State) (k : Win) (f : Format) (l : Layout) (se db bl pd : Bool) :
    ∀ op ∈ wcfgSteps s k f l se db bl pd, op.handlerOnly = false := by
  intro op hop
  simp only [wcfgSteps, List.mem_append, List.mem_singleton] at hop
  rcases hop with ((hfill | haddress) | hprogram) | rfl
  · unfold zeroFillSteps at hfill
    split at hfill
    · cases hfill
    · rw [List.mem_singleton.mp hfill]
      rfl
  · exact handlerOnly_addressSteps _ _ _ _ op haddress
  · exact handlerOnly_programSteps _ _ _ _ _ _ op hprogram
  · rfl

theorem handlerOnly_pflushSteps (k : Win) (deferred : Bool) :
    ∀ op ∈ pflushSteps k deferred, op.handlerOnly = false := by
  cases deferred <;> simp [pflushSteps, maskedSteps, MicroOp.handlerOnly]

theorem Begins.enable (s : State) (k : Win) (keep set : Word) (on : Bool) :
    Begins s (launch s (regUpdateSteps (.win k .ctl) keep set ++ [.commitEnable k on])) :=
  .launched (by simp [regUpdateSteps, MicroOp.handlerOnly])

/-- A command that needs a configuration. -/
theorem Begins.ready {s : State} {win : Nat} {f : Win → Host.Outcome State Fault Refusal} (h : ∀ k, Begins s (f k)) :
    Begins s (if s.port.configured = true then onWindow s win f else reject s .notReady) := by
  split
  · exact onWindow_elim (.rejected s _) fun k _ => h k
  · exact .rejected s _

theorem exec_begins (i : Instr) (s : State) : Begins s (exec i s) := by
  cases i with
  | timing =>
    show Begins s (execTiming s)
    unfold execTiming
    split
    · exact .rejected s _
    · split
      · exact .rejected s _
      · exact .launched (handlerOnly_timingSteps _)
  | outon =>
    show Begins s (execOuton s)
    unfold execOuton
    split
    · exact .launched (by simp [outonSteps, regUpdateSteps, regWriteSteps, MicroOp.handlerOnly])
    · exact .rejected s _
  | outoff => exact .launched (by simp [outoffSteps, regUpdateSteps, MicroOp.handlerOnly])
  | wcfg win fmt se db bl pd =>
    refine .ready fun k => ?_
    split
    · exact .rejected s _
    · exact .launched (handlerOnly_wcfgSteps _ _ _ _ _ _ _ _)
  | wpan win =>
    refine .ready fun k => ?_
    split
    · exact .rejected s _
    · exact .launched (handlerOnly_wpanSteps _ _ _ _)
  | wen win =>
    refine .ready fun k => ?_
    split
    · exact .enable s k _ _ _
    · exact .rejected s _
  | wdis win => exact .ready fun k => .enable s k _ _ _
  | pset win idx =>
    exact onWindow_elim (P := Begins s) (.rejected s _) fun k _ =>
      onIndexed_elim (P := Begins s) (.rejected s _) fun _ => .ended rfl rfl
  | pflush win =>
    exact onWindow_elim (P := Begins s) (.rejected s _) fun k _ =>
      onIndexed_elim (P := Begins s) (.rejected s _) fun _ => .launched (handlerOnly_pflushSteps _ _)
  | vwait slot =>
    show Begins s (vwaitOn s _)
    unfold vwaitOn
    split
    · exact .rejected s _
    · exact .ended rfl rfl
  | susp =>
    show Begins s (execSusp s)
    unfold execSusp
    split
    · exact .ended rfl rfl
    · exact .launched (by decide)
  | resm =>
    show Begins s (execResm s)
    unfold execResm
    split
    · exact .ended rfl rfl
    · exact .launched (by decide)

theorem startCommand_begins (s : State) : Begins s (startCommand s) := by
  unfold startCommand
  split
  · exact exec_begins _ s
  · exact .rejected s _

/-- A command that an accepted word starts keeps the agents apart from its first micro-step on. -/
theorem startCommand_agentsApart {s t : State} (h : s.agentsApart) (hc : startCommand s = .next t) : t.agentsApart := by
  generalize ho : startCommand s = o at hc
  have hbegins : Begins s o := ho ▸ startCommand_begins s
  cases hbegins with
  | ended hq hv =>
    cases hc
    exact h.of_ended (by rw [hq]; rfl) hv
  | @launched steps hsteps =>
    have hlaunched : (s.withCsq (.running steps)).agentsApart := ⟨hsteps, h.2⟩
    exact agentsApart_invariant.runScheduled _ hlaunched hc

/-- Settles O55: a micro-step lays out only micro-steps of its own agent's kind, and a command none of the handler's. -/
theorem agentsStayApart : Obligations.AgentsStayApart := fun _ _ h hst =>
  agentsApart_invariant.step (fun _ _ _ => startCommand_agentsApart) h hst

end Sys2Proof.Machine
end

-- ==== The frame start ====
section
/-! PROOFS. The frame-start event, its conditions and its load, and the load at the write that raises OUT_EN (rules R142,
R169, R170, R190, R260). -/

namespace Sys2Proof.Machine

variable {s : State}

/-! ### When a frame starts -/

theorem State.frameMayStart_iff (s : State) : s.frameMayStart = true ↔
    bit s.engine.regs.ctrl 0 = true ∧ s.power.pixclkOn = true ∧ s.power.busclkOn = true ∧ s.engine.cur = .idle := by
  simp [State.frameMayStart, EngineRegs.outEn, and_assoc]

theorem frameTurn_starts (h : s.frameMayStart = true) (hf : s.port.fault = none) : frameTurn s = s.frameStart := by
  have hfaulted : s.faulted = false := by simp [State.faulted, hf]
  unfold frameTurn
  rw [hfaulted, h]
  rfl

theorem frameTurn_stays (h : bit s.engine.regs.ctrl 0 = false ∨ s.power.pixclkOn = false ∨ s.power.busclkOn = false
    ∨ s.engine.cur ≠ .idle ∨ s.port.fault ≠ none) : frameTurn s = s := by
  unfold frameTurn
  split
  · rename_i hmay
    obtain ⟨hfault, hstart⟩ := Bool.and_eq_true_iff.mp hmay
    obtain ⟨hon, hpix, hbus, hcur⟩ := s.frameMayStart_iff.mp hstart
    have hf : s.port.fault = none := by simpa [State.faulted] using hfault
    simp [hon, hpix, hbus, hcur, hf] at h
  · rfl

/-! ### The load (rules R169, R170, R190) -/

theorem EngineRegs.bufsel_iff (e : EngineRegs) (i : Win) :
    e.bufsel i = true ↔ i.val ≤ 1 ∧ bit e.win[i].ctl 1 = true := by
  simp [EngineRegs.bufsel]

/-- What the load leaves for one window: the multiplexed addresses behind its latch, and the palette of a window that is
not being updated. -/
theorem Engine.frameStartLoad_window (e : Engine) (i : Win) :
    e.frameStartLoad.actStart[i] = (if bit e.regs.alatch i.val then
        (if i.val ≤ 1 ∧ bit e.regs.win[i].ctl 1 = true then e.regs.win[i].start1 else e.regs.win[i].start0)
        else e.actStart[i])
      ∧ e.frameStartLoad.actEnd[i] = (if bit e.regs.alatch i.val then
        (if i.val ≤ 1 ∧ bit e.regs.win[i].ctl 1 = true then e.regs.win[i].end1 else e.regs.win[i].end0)
        else e.actEnd[i])
      ∧ e.frameStartLoad.actpal[i] = (if bit e.regs.palctl i.val then e.actpal[i] else e.palram[i]) := by
  simp only [← EngineRegs.bufsel_iff]
  exact ⟨Vector.getElem_ofFn i.isLt, Vector.getElem_ofFn i.isLt, Vector.getElem_ofFn i.isLt⟩

/-- The frame start moves FRAME, the load's latches and cursor, and VSYNC_PEND, and nothing else. -/
theorem State.frameStart_moves (s : State) : s.frameStart = { s with
    frame := s.frame + 1
    engine := { s.engine with
      actStart := s.frameStart.engine.actStart, actEnd := s.frameStart.engine.actEnd,
      actpal := s.frameStart.engine.actpal, cur := .at 0 0
      intpend := if bit s.engine.regs.inten 0 then true else s.engine.intpend } } := by
  have hpend : (s.engine.intpend || s.engine.regs.vsyncIe)
      = if bit s.engine.regs.inten 0 then true else s.engine.intpend := by
    unfold EngineRegs.vsyncIe
    cases bit s.engine.regs.inten 0 <;> simp
  rw [← hpend]
  rfl

/-- The write that raises OUT_EN performs the load (rule R142). -/
theorem Engine.writeReg_rises (e : Engine) {v : Word} (hoff : bit e.regs.ctrl 0 = false) (hon : bit v 0 = true) :
    e.writeReg .ctrl v = Engine.frameStartLoad { e with regs := { e.regs with ctrl := v } } := by
  have hbefore : e.regs.outEn = false := hoff
  have hafter : (e.regs.put .ctrl v).outEn = true := hon
  unfold Engine.writeReg Engine.outputEdge
  rw [if_pos hafter, hbefore]
  rfl

/-- Settles O35. -/
theorem frameStartEvent : Obligations.FrameStartEvent := by
  intro s
  refine ⟨fun hon hpix hbus hcur hf => ?starts, fun h => congrArg _ (frameTurn_stays h), fun v hoff hon => ?rises⟩
  case starts =>
    have hmay : s.frameMayStart = true := s.frameMayStart_iff.mpr ⟨hon, hpix, hbus, hcur⟩
    exact ⟨s.frameStart, congrArg _ (frameTurn_starts hmay hf), s.frameStart_moves, s.engine.frameStartLoad_window⟩
  case rises =>
    have hload : (s.regWrite .ctrl v).engine = _ := s.engine.writeReg_rises hoff hon
    exact ⟨hload, rfl, by rw [hload]; rfl⟩

end Sys2Proof.Machine
end

-- ==== How each command ends ====
section
/-! PROOFS. The end of every command that runs undisturbed: a code of its row with nothing else changed, success, RESM given
up, or the fault, and the fault only in a command that can meet a gated engine domain (rules R242, R251, R252, R257). -/

namespace Sys2Proof.Machine

variable {s : State}

/-! ### The ends -/

/-- The commands that never fault: PSET, VWAIT, SUSP, RESM, and a PFLUSH that is deferred or has nothing to write
(rule R257). -/
def State.Spares (s : State) (i : Instr) : Prop :=
  (∃ win idx, i = .pset win idx) ∨ (∃ slot, i = .vwait slot) ∨ i = .susp ∨ i = .resm
    ∨ (∃ j : Win, i = .pflush j.val ∧ (s.windows[j].palDefer = true ∨ s.pend.dirty[j] = false))

/-- The blocks in which a command can end, by how it ends. -/
inductive Ends (s : State) (i : Instr) : State → Prop
  | refused {r : Result} (hr : r ∈ mayEndWith i) : Ends s i (s.finish r 0)
  | succeeded {u : State} (v : Word) (hf : u.port.fault = none) : Ends s i (u.finish .ok v)
  | givenUp {u : State} (hi : i = .resm) (hf : u.port.fault = none) : Ends s i (u.finish .powerSequenceFailed 0)
  | faulted {t : State} (hi : ¬ s.Spares i) (hf : t.port.fault ≠ none) : Ends s i t

/-- A command's outcome is the block of one of these ends. -/
def EndsIn (s : State) (i : Instr) (o : Host.Outcome State Fault Refusal) : Prop := ∃ t, o = .next t ∧ Ends s i t

theorem EndsIn.refused {i : Instr} {r : Result} (hr : r ∈ mayEndWith i) : EndsIn s i (reject s r) :=
  ⟨_, rfl, .refused hr⟩

theorem EndsIn.succeeded {i : Instr} {o : Host.Outcome State Fault Refusal} {u : State} {v : Word}
    (ho : o = .next (u.finish .ok v)) (hf : u.port.fault = none) : EndsIn s i o := ⟨_, ho, .succeeded v hf⟩

theorem EndsIn.gated {i : Instr} {o : Host.Outcome State Fault Refusal} {a : State} {r : RegId} {v : Word} {depth : Nat}
    (hi : ¬ s.Spares i) (h : ∃ u, o = .next u ∧ FaultedAt a u r v depth) : EndsIn s i o := by
  obtain ⟨u, hu, hfault⟩ := h
  exact ⟨u, hu, .faulted hi hfault.fault_ne⟩

theorem ok_mem_mayEndWith (i : Instr) : Result.ok ∈ mayEndWith i := by
  cases i <;> exact List.mem_cons_self

/-! ### TIMING, OUTON and OUTOFF (rules R140 to R143) -/

theorem timing_ends (h : s.undisturbed) : EndsIn s .timing (exec .timing s) := by
  cases hc : s.port.configured with
  | true => rw [exec_timing, execTiming, if_pos hc]; exact .refused (by simp [mayEndWith])
  | false =>
    cases ht : s.cfg.timingCalc with
    | none => rw [exec_timing, execTiming, hc, ht]; exact .refused (by simp [mayEndWith])
    | some t =>
      rcases s.clocked_or with hb | hb
      · exact .succeeded (timing_clocked h hb hc ht) h.1
      · exact .gated (by simp [State.Spares]) (timing_gated h hb hc ht)

theorem outon_ends (h : s.undisturbed) : EndsIn s .outon (exec .outon s) := by
  cases hc : s.port.configured with
  | false => rw [exec_outon, execOuton, hc]; exact .refused (by simp [mayEndWith])
  | true =>
    rcases s.clocked_or with hb | hb
    · exact .succeeded (outon_clocked h hb hc) h.1
    · exact .gated (by simp [State.Spares]) (outon_gated h hb hc)

theorem outoff_ends (h : s.undisturbed) : EndsIn s .outoff (exec .outoff s) := by
  rcases s.clocked_or with hb | hb
  · exact .succeeded (outoff_clocked h hb) h.1
  · exact .gated (by simp [State.Spares]) (outoff_gated h hb)

/-! ### The window commands (rules R154 to R173) -/

/-- A window command: refused before bring-up and for a number that selects no window, else what it does on its window. -/
theorem EndsIn.ready {i : Instr} {win : Nat} {f : Win → Host.Outcome State Fault Refusal}
    (hnot : .notReady ∈ mayEndWith i) (hnone : .invalidWindow ∈ mayEndWith i)
    (h : s.port.configured = true → ∀ k : Win, win = k.val → EndsIn s i (f k)) :
    EndsIn s i (if s.port.configured = true then onWindow s win f else reject s .notReady) := by
  split
  · exact onWindow_elim (.refused hnone) (h ‹_›)
  · exact .refused hnot

/-- WCFG's checks refuse with three codes only (rules R154, R251). -/
theorem wcfgCheck_error_mem {c : ConfigBank} {k : Win} {fmt : BitVec 2} {db bl : Bool} {a : WcfgArgs} {e : Result}
    (h : wcfgCheck c k fmt db bl a = .error e) : e ∈ [Result.invalidWindow, .invalidGeometry, .invalidFormat] := by
  unfold wcfgCheck at h
  (repeat' split at h) <;> cases h <;> simp

theorem wcfg_ends (h : s.undisturbed) (win : Nat) (fmt : BitVec 2) (se db bl pd : Bool) :
    EndsIn s (.wcfg win fmt se db bl pd) (exec (.wcfg win fmt se db bl pd) s) := by
  refine .ready (by simp [mayEndWith]) (by simp [mayEndWith]) fun hc k hk => ?_
  subst hk
  cases hcheck : wcfgCheck s.cfg k fmt db bl s.wcfgArgs with
  | error e =>
    have hcode := wcfgCheck_error_mem hcheck
    exact .refused (by simp only [mayEndWith, List.mem_cons] at hcode ⊢; tauto)
  | ok p =>
    obtain ⟨f, l⟩ := p
    have hready := wcfg_ready (se := se) (pd := pd) k hc hcheck
    rcases s.clocked_or with hb | hb
    · obtain ⟨m, hm⟩ := s.filled_eq k f l
      refine .succeeded (hready.symm.trans (wcfg_clocked h hb k hc hcheck)) ?_
      show ((s.filled k f l).writeAll _).port.fault = none
      rw [State.writeAll_port, hm]
      exact h.1
    · obtain ⟨u, hu, hf⟩ := wcfg_gated (se := se) (pd := pd) h hb k hc hcheck
      exact .gated (by simp [State.Spares]) ⟨u, hready.symm.trans hu, hf⟩

theorem wpan_ends (h : s.undisturbed) (win : Nat) : EndsIn s (.wpan win) (exec (.wpan win) s) := by
  refine .ready (by simp [mayEndWith]) (by simp [mayEndWith]) fun hc k hk => ?_
  subst hk
  cases hp : s.windows[k].panPlan s.panArg with
  | none => exact .refused (by simp [mayEndWith])
  | some p =>
    have hready := wpan_ready k hc hp
    rcases s.clocked_or with hb | hb
    · refine .succeeded (hready.symm.trans (wpan_clocked h hb k hc hp)) ?_
      show (s.writeAll _).port.fault = none
      rw [State.writeAll_port]
      exact h.1
    · obtain ⟨u, hu, hf⟩ := wpan_gated h hb k hc hp
      exact .gated (by simp [State.Spares]) ⟨u, hready.symm.trans hu, hf⟩

theorem wen_ends (h : s.undisturbed) (win : Nat) : EndsIn s (.wen win) (exec (.wen win) s) := by
  refine .ready (by simp [mayEndWith]) (by simp [mayEndWith]) fun hc k hk => ?_
  subst hk
  split
  · have hbuf : s.windows[k].buffer.isSome = true := ‹_›
    rcases s.clocked_or with hb | hb
    · exact .succeeded ((wen_ready k hc hbuf).symm.trans (wen_clocked h hb k hc hbuf)) h.1
    · exact .gated (by simp [State.Spares]) (launch_gated h hb _ _ _ _)
  · exact .refused (by simp [mayEndWith])

theorem wdis_ends (h : s.undisturbed) (win : Nat) : EndsIn s (.wdis win) (exec (.wdis win) s) := by
  refine .ready (by simp [mayEndWith]) (by simp [mayEndWith]) fun hc k hk => ?_
  subst hk
  rcases s.clocked_or with hb | hb
  · exact .succeeded ((wdis_ready k hc).symm.trans (wdis_clocked h hb k hc)) h.1
  · exact .gated (by simp [State.Spares]) (launch_gated h hb _ _ _ _)

/-! ### The palette commands and VWAIT (rules R182 to R188, R218) -/

/-- A palette command: refused for a number that selects no window and on a window that is not Indexed8. -/
theorem EndsIn.indexed {i : Instr} {win : Nat} {f : Win → Host.Outcome State Fault Refusal}
    (hnone : .invalidWindow ∈ mayEndWith i) (hother : .invalidFormat ∈ mayEndWith i)
    (h : ∀ k : Win, win = k.val → s.windows[k].format = some .indexed8 → EndsIn s i (f k)) :
    EndsIn s i (onWindow s win fun k => onIndexed s k (f k)) :=
  onWindow_elim (.refused hnone) fun k hk => onIndexed_elim (.refused hother) (h k hk)

theorem pset_ends (h : s.undisturbed) (win idx : Nat) : EndsIn s (.pset win idx) (exec (.pset win idx) s) :=
  .indexed (by simp [mayEndWith]) (by simp [mayEndWith]) fun _ _ _ => .succeeded rfl h.1

/-- An immediate PFLUSH of a dirty table is not one of the commands that never fault. -/
theorem not_spares_pflush {k : Win} (hd : s.windows[k].palDefer = false) (hdirty : s.pend.dirty[k] = true) :
    ¬ s.Spares (.pflush k.val) := by
  rintro (⟨_, _, hi⟩ | ⟨_, hi⟩ | hi | hi | ⟨j, hi, hj⟩)
  case inr.inr.inr.inr =>
    obtain rfl : k = j := Fin.ext (Instr.pflush.inj hi)
    rw [hd, hdirty] at hj
    rcases hj with hj | hj <;> cases hj
  all_goals cases hi

theorem pflush_ends (h : s.undisturbed) (win : Nat) : EndsIn s (.pflush win) (exec (.pflush win) s) := by
  refine .indexed (by simp [mayEndWith]) (by simp [mayEndWith]) fun k hk hf => ?_
  subst hk
  rw [← pflush_ready k hf]
  cases hd : s.windows[k].palDefer with
  | true => exact .succeeded (pflush_deferred h k hf hd) h.1
  | false =>
    cases hdirty : s.pend.dirty[k] with
    | false => exact .succeeded (pflush_clean h k hf hd hdirty) h.1
    | true =>
      rcases s.clocked_or with hb | hb
      · exact .succeeded (pflush_clocked h hb k hf hd) (State.free_flushed h.free k).1
      · exact .gated (not_spares_pflush hd hdirty) (pflush_gated h hb k hf hd hdirty)

theorem vwait_ends (h : s.undisturbed) (slot : Nat) : EndsIn s (.vwait slot) (exec (.vwait slot) s) := by
  rw [exec_vwait]
  unfold execVwait vwaitOn
  split
  · exact .refused (by simp [mayEndWith])
  · exact .succeeded rfl h.1

/-! ### SUSP and RESM (rules R232 to R244) -/

theorem susp_ends (h : s.undisturbed) : EndsIn s .susp (exec .susp s) := by
  by_cases hp : s.power.pstate = .suspended
  · exact .succeeded (susp_suspended hp) h.1
  · exact .succeeded (susp_undisturbed h hp) h.1

theorem EndsIn.resumed {o : Host.Outcome State Fault Refusal} {t : TimingImage} (h : s.undisturbed)
    (ho : o = .next (s.powered.resumed s.power.snapshot t)) : EndsIn s .resm o := by
  refine .succeeded ho ?_
  show ((s.powered.writeAll (restoreWrites s.power.snapshot)).rederived t).port.fault = none
  rw [State.rederived_eq, State.writeAll_port, State.writeAll_port]
  exact h.1

theorem EndsIn.givenUp {o : Host.Outcome State Fault Refusal} {u : State} (ho : o = .next u.resumeGivenUp)
    (hf : u.port.fault = none) : EndsIn s .resm o := ⟨_, ho, .givenUp rfl hf⟩

theorem resm_ends (h : s.undisturbed) : EndsIn s .resm (exec .resm s) := by
  by_cases hp : s.power.pstate = .active
  · exact .succeeded (resm_active hp) h.1
  cases hr : s.env.domainReady with
  | false => exact .givenUp (resm_never_ready h hp hr) h.1
  | true =>
    cases hc : s.port.configured with
    | false =>
      have hnone : s.port.configured = true → s.cfg.timingCalc = some ⟨0, 0, 0, 0, 0, 0, 0⟩ := by
        rw [hc]
        exact fun h => (nomatch h)
      exact .resumed h (resm_resumes h hp hr hnone)
    | true =>
      cases ht : s.cfg.timingCalc with
      | none => exact .givenUp (resm_refused h hp hr hc ht) (by rw [State.writeAll_port]; exact h.1)
      | some t => exact .resumed h (resm_resumes h hp hr fun _ => ht)

/-! ### Every command -/

theorem exec_ends (h : s.undisturbed) (i : Instr) : EndsIn s i (exec i s) := by
  cases i with
  | timing => exact timing_ends h
  | outon => exact outon_ends h
  | outoff => exact outoff_ends h
  | wcfg win fmt se db bl pd => exact wcfg_ends h win fmt se db bl pd
  | wpan win => exact wpan_ends h win
  | wen win => exact wen_ends h win
  | wdis win => exact wdis_ends h win
  | pset win idx => exact pset_ends h win idx
  | pflush win => exact pflush_ends h win
  | vwait slot => exact vwait_ends h slot
  | susp => exact susp_ends h
  | resm => exact resm_ends h

/-- Settles O45: each end has a code of the command's row, and a command that is spared does not end in the fault. -/
theorem resultCodesAndFaults : Obligations.ResultCodesAndFaults := by
  intro s t i h he
  obtain ⟨u, hu, hends⟩ := exec_ends h i
  rw [hu] at he
  obtain rfl := Host.Outcome.next.inj he
  cases hends with
  | refused hr => exact ⟨fun _ => ⟨rfl, hr, fun _ _ => rfl⟩, fun _ => h.1⟩
  | succeeded v hf => exact ⟨fun _ => ⟨rfl, ok_mem_mayEndWith i, fun hne => absurd rfl hne⟩, fun _ => hf⟩
  | givenUp hi hf =>
    subst hi
    exact ⟨fun _ => ⟨rfl, by simp [mayEndWith], fun _ hne => absurd rfl hne⟩, fun _ => hf⟩
  | faulted hi hf => exact ⟨fun hnone => absurd hnone hf, fun hspares => absurd hspares hi⟩

end Sys2Proof.Machine
end

-- ==== Reset from any state ====
section
/-! PROOFS. Reset as one step from any state (rules R280, R282). -/

namespace Sys2Proof.Machine

/-- A scheduled choice other than the sequencer's is performed with the later choices left (rule R9). -/
theorem step_scheduled {s : State} {e : Event} {es : List Event} (hs : s.env.schedule = e :: es)
    (he : e ≠ .sequencer) : step s = eventStep e { s with env := { s.env with schedule := es } } := by
  simp [step, hs, he]

/-- Palette memories drawn anew hold no written word (rules R49, R51, R57). -/
theorem Engine.lost_unwritten (d : Nat) (i : Win) (k : Fin Config.paletteSize) :
    (Engine.lost d).palram[i].words[k] = none ∧ (Engine.lost d).actpal[i].words[k] = none := by
  simp [Engine.lost, PaletteMem.drawn]

/-- Settles O46: whatever runs, the scheduled reset is the step, and each field is that of `State.resetStep`. -/
theorem resetFromAnywhere : Obligations.ResetFromAnywhere := by
  intro s es hs
  have hstep : step s = .next (State.resetStep { s with env := { s.env with schedule := es } }) :=
    step_scheduled hs (by decide)
  exact ⟨_, hstep, rfl, rfl, rfl, rfl, rfl, rfl, rfl, rfl, rfl, rfl, rfl, rfl, rfl, rfl, rfl, rfl,
    Engine.lost_unwritten s.env.draws⟩

end Sys2Proof.Machine
end

-- ==== Every command ends ====
section
/-! PROOFS. Every list of micro-steps that an agent holds in mid-command closes with one after which the agent has ended or
holds such a list again; so a run stops at the end of the command or at the fault, whatever is scheduled (rule R297). -/

namespace Sys2Proof.Machine

variable {s t : State} {op : MicroOp} {ops first rest : List MicroOp}

/-! ### Lists of micro-steps that close -/

/-- The micro-steps that may stand last: those that end their agent, and the readiness poll, which lays out what follows
it (rules R102, R238, R262). -/
def MicroOp.closes : MicroOp → Bool
  | .enterSuspended | .enterActive | .resumeFailed | .pollReady | .handlerReturn => true
  | op => op.endsCommand

/-- The list has a last micro-step, and it is one that may stand last. -/
def Closing (ops : List MicroOp) : Prop := ∃ front op, ops = front ++ [op] ∧ op.closes = true

theorem Closing.last (h : op.closes = true) : Closing [op] := ⟨[], op, rfl, h⟩

theorem Closing.append (h : Closing ops) (l : List MicroOp) : Closing (l ++ ops) := by
  obtain ⟨front, op, rfl, hop⟩ := h
  exact ⟨l ++ front, op, (List.append_assoc ..).symm, hop⟩

theorem Closing.cons (h : Closing ops) (op : MicroOp) : Closing (op :: ops) := h.append [op]

theorem not_closing_nil : ¬ Closing [] := by
  rintro ⟨front, op, hnil, -⟩
  simp at hnil

/-- The first micro-step of the list stands last, or the rest closes. -/
theorem Closing.of_cons (h : Closing (op :: rest)) : (rest = [] ∧ op.closes = true) ∨ Closing rest := by
  obtain ⟨_ | ⟨_, front⟩, last, he, hlast⟩ := h <;> cases he
  · exact .inl ⟨rfl, hlast⟩
  · exact .inr ⟨front, last, rfl, hlast⟩

theorem Closing.tail (h : Closing (op :: rest)) (hop : op.closes = false) : Closing rest := by
  rcases h.of_cons with ⟨-, hlast⟩ | hrest
  · rw [hop] at hlast
    cases hlast
  · exact hrest

/-- In the place of the first micro-step any list that closes may stand. -/
theorem Closing.replace (h : Closing (op :: rest)) (hfirst : Closing first) : Closing (first ++ rest) := by
  rcases h.of_cons with ⟨rfl, -⟩ | hrest
  · rwa [List.append_nil]
  · exact hrest.append first

theorem MicroOp.closes_of_endsCommand (h : op.endsCommand = true) : op.closes = true := by
  cases op with
  | commitTiming | commitWindow | commitPan | commitEnable | returnOk => rfl
  | _ => cases h

theorem Body.closing {n : Nat} (h : Body n ops) : Closing ops := by
  induction h with
  | last hop => exact .last (MicroOp.closes_of_endsCommand hop)
  | enter _ ih | leave _ ih | calm _ _ ih => exact ih.cons _

theorem LaysOut.closing (h : LaysOut s ops) : Closing ops := by
  cases h with
  | body hbody => exact hbody.closing
  | susp => exact (Closing.last rfl).append [.enterSuspending, .capture, .idlePins, .startSettle, .gateWhenSettled]
  | resm => exact (Closing.last rfl).append [.enterResuming, .clocksOn, .retryClear]

theorem closing_resumeSteps (snap : Option EngineRegs) : Closing (resumeSteps snap) := by
  have htail : Closing [MicroOp.dropSnapshot, .enterActive] := (Closing.last rfl).cons _
  exact htail.append _

theorem closing_resumeFailSteps : Closing resumeFailSteps := (Closing.last rfl).cons _

/-! ### What a micro-step leaves -/

/-- After a micro-step with `rest` behind it the agent has ended, stands where it is, or holds a list that closes. -/
def Flow.closesWith (rest : List MicroOp) : Flow → Prop
  | .go first => Closing (first ++ rest)
  | .jump instead => Closing instead
  | .done => True
  | .halt => True

theorem closesWith_go (h : Closing (op :: rest)) (hop : op.closes = false) (first : List MicroOp) :
    (Flow.go first).closesWith rest := (h.tail hop).append first

/-- Every micro-step of a list that closes leaves one, ends its agent or raises the fault. -/
theorem microStep_closesWith (s : State) (h : Closing (op :: rest)) : (microStep op s).2.closesWith rest := by
  cases op with
  | regHardware r v =>
    show (microRegHardware s r v).2.closesWith rest
    unfold microRegHardware
    split
    · exact closesWith_go h rfl _
    · trivial
  | palWrite i k v =>
    show (microPalWrite s i k v).2.closesWith rest
    unfold microPalWrite
    split
    · exact closesWith_go h rfl _
    · trivial
  | zeroFill a n => cases n <;> exact closesWith_go h rfl _
  | pollReady =>
    show (microPoll s).2.closesWith rest
    unfold microPoll
    split
    · exact h.replace (closing_resumeSteps s.power.snapshot)
    · split
      · exact h
      · exact closing_resumeFailSteps
  | rederive =>
    show (microRederive s).2.closesWith rest
    unfold microRederive
    split
    · split
      · exact closesWith_go h rfl _
      · exact closing_resumeFailSteps
    · exact closesWith_go h rfl _
  | commitTiming | commitWindow | commitPan | commitEnable | returnOk | enterSuspended | enterActive | resumeFailed
  | handlerReturn => trivial
  | _ => exact closesWith_go h rfl _

/-! ### Agents that come to an end -/

/-- The sequencer is idle, or holds a list that closes. -/
def Csq.Ending (c : Csq) : Prop := c = .idle ∨ ∃ ops, c = .running ops ∧ Closing ops

/-- The handler is idle, or holds a list that closes. -/
def Handler.Ending (h : Handler) : Prop := h = .idle ∨ ∃ ops, h = .running ops ∧ Closing ops

/-- No command waits for its first micro-step, and both agents come to an end. -/
structure State.Ending (s : State) : Prop where
  sequencer : s.port.csq.Ending
  handler : s.vsync.handler.Ending

theorem Csq.Ending.closing {c : Csq} (h : c.Ending) (hc : c = .running ops) : Closing ops := by
  subst hc
  obtain h | ⟨_, h, hops⟩ := h <;> cases h
  exact hops

theorem Handler.Ending.closing {c : Handler} (h : c.Ending) (hc : c = .running ops) : Closing ops := by
  subst hc
  obtain h | ⟨_, h, hops⟩ := h <;> cases h
  exact hops

theorem State.Ending.of_same (h : s.Ending) (hq : t.port.csq = s.port.csq ∨ t.port.csq = .idle)
    (hh : t.vsync.handler = s.vsync.handler) : t.Ending := by
  refine ⟨?_, hh ▸ h.handler⟩
  rcases hq with hq | hq
  · exact hq ▸ h.sequencer
  · exact .inl hq

theorem State.Ending.withEnv (h : s.Ending) (env : Platform) : State.Ending { s with env := env } :=
  ⟨h.sequencer, h.handler⟩

theorem sequencerStep_ending (h : s.Ending) (hq : s.port.csq = .running (op :: rest)) :
    (sequencerStep op rest s).Ending := by
  have hflow := microStep_closesWith s (h.sequencer.closing hq)
  obtain ⟨hhandler, hcsq⟩ := microStep_agents op s
  unfold sequencerStep
  rcases hm : microStep op s with ⟨u, first | instead | _ | _⟩ <;> rw [hm] at hflow hhandler hcsq
  · exact ⟨.inr ⟨_, rfl, hflow⟩, hhandler ▸ h.handler⟩
  · exact ⟨.inr ⟨_, rfl, hflow⟩, hhandler ▸ h.handler⟩
  · exact ⟨.inl rfl, hhandler ▸ h.handler⟩
  · exact h.of_same hcsq hhandler

theorem handlerStep_ending (h : s.Ending) (hh : s.vsync.handler = .running (op :: rest)) :
    (handlerStep op rest s).Ending := by
  have hflow := microStep_closesWith s (h.handler.closing hh)
  have hsequencer : (microStep op s).1.Ending := by
    obtain ⟨hhandler, hcsq⟩ := microStep_agents op s
    exact h.of_same hcsq hhandler
  unfold handlerStep
  rcases hm : microStep op s with ⟨u, first | instead | _ | _⟩ <;> rw [hm] at hflow hsequencer
  · exact ⟨hsequencer.sequencer, .inr ⟨_, rfl, hflow⟩⟩
  · exact ⟨hsequencer.sequencer, .inr ⟨_, rfl, hflow⟩⟩
  · exact ⟨hsequencer.sequencer, .inl rfl⟩
  · exact hsequencer

theorem handlerEnter_ending (h : s.Ending) : s.handlerEnter.Ending :=
  ⟨h.sequencer, .inr ⟨_, rfl, (Closing.last rfl).append _⟩⟩

/-! ### Every choice and every run -/

/-- While a command runs no choice has another accepted: the doorbell is dropped (rule R101). -/
theorem eventStep_ending {e : Event} (h : s.Ending) (hb : s.port.csq ≠ .idle) (he : eventStep e s = .next t) :
    t.Ending := by
  cases e with
  | sequencer =>
    cases he
    rcases sequencerTurn_cases s with hs | ⟨op, rest, hq, -, -, hs⟩ <;> rw [hs]
    · exact h
    · exact sequencerStep_ending h hq
  | handler =>
    cases he
    rcases handlerTurn_cases s with hs | ⟨-, -, -, hs⟩ | ⟨op, rest, -, hh, hs⟩ <;> rw [hs]
    · exact h
    · exact handlerEnter_ending h
    · exact handlerStep_ending h hh
  | frameStart =>
    cases he
    unfold frameTurn
    split
    · exact h.of_same (.inl rfl) rfl
    · exact h
  | scanOut =>
    cases he
    obtain ⟨hport, -, -, -, hvsync⟩ := scanTurn_cases s
    exact h.of_same (.inl (by rw [hport])) (by rw [hvsync])
  | tick =>
    cases he
    unfold tickTurn
    split
    · exact h
    · exact h.of_same (.inl rfl) rfl
  | hostRead w o => rcases hostRead_next he with rfl | ⟨x, rfl⟩ <;> exact h.of_same (.inl rfl) rfl
  | hostWrite w o v =>
    rcases hostWrite_next he with rfl | ⟨-, rfl⟩ | rfl
    · exact h
    · exact h.of_same (.inl rfl) rfl
    · rcases writePort_cases s o v with hw | ⟨-, hw⟩ | ⟨-, ⟨k, hw⟩ | hw | ⟨-, r, hw⟩⟩ <;> rw [hw]
      · exact h
      · rcases doorbell_cases s v with hd | ⟨hidle, -⟩
        · rw [hd]
          exact h.of_same (.inl rfl) rfl
        · exact absurd hidle hb
      all_goals exact h.of_same (.inl rfl) rfl
  | memRead a => cases he; exact h.of_same (.inl rfl) rfl
  | memWrite u v => cases he; exact h.of_same (.inl rfl) rfl
  | domainReady l => cases he; exact h.of_same (.inl rfl) rfl
  | reset => cases he; exact ⟨.inl rfl, .inl rfl⟩

theorem autoStep_ending (h : s.Ending) (ha : autoStep s = some t) : t.Ending := by
  obtain ⟨-, ⟨op, rest, hh, rfl⟩ | ⟨-, op, rest, hq, rfl | rfl⟩⟩ := autoStep_cases ha
  · exact handlerStep_ending h hh
  · exact h.of_same (.inl rfl) rfl
  · exact sequencerStep_ending h hq

theorem settleDown_ending (n : Nat) (h : s.Ending) : (settleDown n s).Ending := by
  induction n generalizing s with
  | zero => exact h
  | succ n ih =>
    cases ha : autoStep s with
    | none => rwa [settleDown_none ha]
    | some t => rw [settleDown_succ ha]; exact ih (autoStep_ending h ha)

/-- With nothing left to run, no agent has an empty list of micro-steps, so the command has ended or the block faulted. -/
theorem State.Ending.of_stuck (h : s.Ending) (ha : autoStep s = none) : s.port.csq = .idle ∨ s.port.fault ≠ none := by
  refine or_iff_not_imp_right.mpr fun hf => ?_
  have hfault : s.faulted = false := State.not_faulted_of_none (not_not.mp hf)
  rcases h.sequencer with hidle | ⟨_ | ⟨op, rest⟩, hq, hops⟩
  · exact hidle
  · exact absurd hops not_closing_nil
  · rcases h.handler with hh | ⟨_ | ⟨op', rest'⟩, hh, hops'⟩
    · simp [autoStep, hfault, hh, hq] at ha
    · exact absurd hops' not_closing_nil
    · simp [autoStep, hfault, hh] at ha

theorem complete_ends (h : s.Ending) : (complete s).port.csq = .idle ∨ (complete s).port.fault ≠ none :=
  (settleDown_ending _ h).of_stuck (autoStep_complete s)

/-- A run with the choices between its micro-steps stops at the command's end, or goes on to it with none left. -/
theorem runScheduled_ends (es : List Event) (h : s.Ending) (hr : runScheduled es s = .next t) :
    t.port.csq = .idle ∨ t.port.fault ≠ none := by
  induction es generalizing s with
  | nil => cases hr; exact complete_ends h
  | cons e es ih =>
    unfold runScheduled at hr
    split at hr
    · rename_i hbusy
      have hb : s.port.csq ≠ .idle := fun hq => by rw [(busy_eq_false_iff s).mpr hq] at hbusy; cases hbusy
      split at hr
      · rename_i he
        exact ih (eventStep_ending (h.withEnv { s.env with schedule := es }) hb he) hr
      · cases hr
      · cases hr
    · rename_i hbusy
      cases hr
      exact .inl ((busy_eq_false_iff _).mp (Bool.not_eq_true _ ▸ hbusy))

/-- Settles O59: a command ends in its first micro-step, or runs from a list that closes with the handler idle. -/
theorem everyCommandEnds : Obligations.EveryCommandEnds := by
  intro s t i hidle he
  rcases exec_starts i s with ⟨u, hu, hend⟩ | ⟨steps, hl, hlay⟩
  · rw [hu] at he
    cases he
    cases hend <;> exact .inl rfl
  · rw [hl] at he
    have hlaunched : (s.withCsq (.running steps)).Ending := ⟨.inr ⟨steps, rfl, hlay.closing⟩, .inl hidle⟩
    exact runScheduled_ends s.env.schedule hlaunched he

end Sys2Proof.Machine
end

-- ==== Every wait ends ====
section
/-! PROOFS. Every step leaves a Waiting slot at most as many TICKs as it had, and each TICK one fewer; so under fairness (c)
a wait ends (rules R220, R296, R297). -/

namespace Sys2Proof.Machine

variable {s t : State} {k : Fin Config.nslot} {n : Nat}

/-! ### One slot (rules R219, R220) -/

/-- The wait of the slot, if it has one, ends with the `n`th TICK from here at the latest. -/
def Waiter.endsWithin (n : Nat) (w : Waiter) : Prop := w.state = .waiting → w.rem.toNat < n

/-- What a step of an agent can do to a slot: nothing, the handler's wake, a TICK, or reset. -/
inductive SlotMove (w : Waiter) : Waiter → Prop
  | kept : SlotMove w w
  | woken (count : Word) : SlotMove w (w.wake count)
  | ticked (count : Word) : SlotMove w (w.tick count)
  | reset : SlotMove w Waiter.reset

theorem SlotMove.of_eq {w w' : Waiter} (h : w' = w) : SlotMove w w' := h ▸ .kept

theorem Waiter.wake_not_waiting (w : Waiter) (count : Word) : (w.wake count).state ≠ .waiting := by
  unfold Waiter.wake
  split
  · exact nofun
  · assumption

/-- A TICK takes one of the TICKs left. -/
theorem Waiter.endsWithin.tick {w : Waiter} (h : w.endsWithin (n + 1)) (count : Word) :
    (w.tick count).endsWithin n := by
  unfold Waiter.tick
  split
  · rename_i hw
    split
    · exact nofun
    · rename_i hrem
      intro _
      have hbound := h hw
      show (w.rem - 1).toNat < n
      bv_omega
  · exact fun hw => absurd hw ‹_›

theorem Waiter.endsWithin.mono {m : Nat} {w : Waiter} (h : w.endsWithin n) (hnm : n ≤ m) : w.endsWithin m :=
  fun hw => (h hw).trans_le hnm

theorem SlotMove.endsWithin {w w' : Waiter} (h : SlotMove w w') (hw : w.endsWithin n) : w'.endsWithin n := by
  cases h with
  | kept => exact hw
  | woken count => exact fun h => absurd h (w.wake_not_waiting count)
  | ticked count => exact (hw.mono n.le_succ).tick count
  | reset => exact nofun

/-! ### What each agent does to a slot -/

theorem State.wakeWaiters_waiter (s : State) (k : Fin Config.nslot) :
    s.wakeWaiters.vsync.waiters[k] = s.vsync.waiters[k].wake s.vsync.vscount :=
  Vector.getElem_map _ k.isLt

/-- Of the micro-steps only the handler's h3 touches the slots. -/
theorem microStep_slot (op : MicroOp) (s : State) (k : Fin Config.nslot) :
    SlotMove s.vsync.waiters[k] (microStep op s).1.vsync.waiters[k] := by
  cases op with
  | wakeWaiters =>
    show SlotMove _ s.wakeWaiters.vsync.waiters[k]
    rw [s.wakeWaiters_waiter]
    exact .woken _
  | zeroFill a n => cases n <;> exact .kept
  | regHardware r v =>
    show SlotMove _ (microRegHardware s r v).1.vsync.waiters[k]
    unfold microRegHardware
    split <;> exact .kept
  | palWrite i j v =>
    show SlotMove _ (microPalWrite s i j v).1.vsync.waiters[k]
    unfold microPalWrite
    split
    · exact .of_eq (by simp)
    · exact .kept
  | pollReady =>
    show SlotMove _ (microPoll s).1.vsync.waiters[k]
    unfold microPoll
    split <;> exact .kept
  | rederive =>
    show SlotMove _ (microRederive s).1.vsync.waiters[k]
    unfold microRederive
    split
    · split <;> exact .kept
    · exact .kept
  | _ => exact .kept

theorem sequencerStep_slot (op : MicroOp) (rest : List MicroOp) (s : State) (k : Fin Config.nslot) :
    SlotMove s.vsync.waiters[k] (sequencerStep op rest s).vsync.waiters[k] := by
  obtain ⟨c, hc⟩ := sequencerStep_eq op rest s
  rw [hc]
  exact microStep_slot op s k

theorem handlerStep_slot (op : MicroOp) (rest : List MicroOp) (s : State) (k : Fin Config.nslot) :
    SlotMove s.vsync.waiters[k] (handlerStep op rest s).vsync.waiters[k] := by
  obtain ⟨h, hh⟩ := handlerStep_eq op rest s
  rw [hh]
  exact microStep_slot op s k

theorem State.tick_slot (s : State) (k : Fin Config.nslot) :
    SlotMove s.vsync.waiters[k] s.tick.vsync.waiters[k] := by
  rw [s.tick_waiter]
  exact .ticked _

/-- The host has no way to a slot but a command (rules R79, R218). -/
theorem State.writePort_vsync (s : State) (o : Nat) (v : Word) : (s.writePort o v).vsync = s.vsync := by
  rcases writePort_cases s o v with hw | ⟨-, hw⟩ | ⟨-, ⟨k, hw⟩ | hw | ⟨-, r, hw⟩⟩ <;> rw [hw]
  rcases doorbell_cases s v with hd | ⟨-, -, hd⟩ <;> rw [hd]
  rfl

theorem eventStep_slot {e : Event} (he : eventStep e s = .next t) (k : Fin Config.nslot) :
    SlotMove s.vsync.waiters[k] t.vsync.waiters[k] := by
  cases e with
  | sequencer =>
    cases he
    rcases sequencerTurn_cases s with hs | ⟨op, rest, -, -, -, hs⟩ <;> rw [hs]
    · exact .kept
    · exact sequencerStep_slot op rest s k
  | handler =>
    cases he
    rcases handlerTurn_cases s with hs | ⟨-, -, -, hs⟩ | ⟨op, rest, -, -, hs⟩ <;> rw [hs]
    · exact .kept
    · exact .kept
    · exact handlerStep_slot op rest s k
  | frameStart =>
    cases he
    unfold frameTurn
    split <;> exact .kept
  | scanOut =>
    cases he
    obtain ⟨-, -, -, -, hvsync⟩ := scanTurn_cases s
    exact .of_eq (by rw [hvsync])
  | tick =>
    cases he
    unfold tickTurn
    split
    · exact .kept
    · exact s.tick_slot k
  | hostRead w o => rcases hostRead_next he with rfl | ⟨x, rfl⟩ <;> exact .kept
  | hostWrite w o v =>
    rcases hostWrite_next he with rfl | ⟨-, rfl⟩ | rfl
    · exact .kept
    · exact .kept
    · exact .of_eq (by rw [s.writePort_vsync])
  | memRead a => cases he; exact .kept
  | memWrite u v => cases he; exact .kept
  | domainReady l => cases he; exact .kept
  | reset =>
    cases he
    have hreset : s.resetStep.vsync.waiters[k] = Waiter.reset := by simp [Vsync.reset]
    rw [hreset]
    exact .reset

theorem autoStep_slot (ha : autoStep s = some t) (k : Fin Config.nslot) :
    SlotMove s.vsync.waiters[k] t.vsync.waiters[k] := by
  obtain ⟨-, ⟨op, rest, -, rfl⟩ | ⟨-, op, rest, -, rfl | rfl⟩⟩ := autoStep_cases ha
  · exact handlerStep_slot op rest s k
  · exact s.tick_slot k
  · exact sequencerStep_slot op rest s k

/-! ### A block with a wait -/

/-- The block has faulted, or the wait of slot `k`, if it has one, ends with the `n`th TICK from here at the latest. The
fault stops the timebase, and only reset, which ends every wait, ends the fault (rules R52, R256). -/
def State.waitWithin (k : Fin Config.nslot) (n : Nat) (s : State) : Prop :=
  s.port.fault ≠ none ∨ s.vsync.waiters[k].endsWithin n

theorem State.waitWithin.mono {m : Nat} (h : s.waitWithin k n) (hnm : n ≤ m) : s.waitWithin k m :=
  h.imp_right fun hw => hw.mono hnm

theorem State.waitWithin.withEnv (h : s.waitWithin k n) (env : Platform) :
    State.waitWithin k n { s with env := env } := h

/-- A choice takes what it has of TICKs, one or none, off the wait. -/
theorem eventStep_waitWithin {e : Event} (h : s.waitWithin k (n + [e].count .tick)) (he : eventStep e s = .next t) :
    t.waitWithin k n := by
  rcases h with hf | hw
  · by_cases hreset : e = .reset
    · subst hreset
      cases he
      exact .inr (by simp [Vsync.reset, Waiter.reset, Waiter.endsWithin])
    · obtain ⟨r, hr⟩ := Option.ne_none_iff_exists'.mp hf
      obtain ⟨hsame, -⟩ := (faultIsQuiescent s r hr).1 e t hreset he
      exact .inl (by rwa [hsame.fault])
  · by_cases htick : e = .tick
    · subst htick
      cases he
      by_cases hf : s.port.fault = none
      · rw [tickTurn_of_unfaulted hf]
        exact .inr (by rw [s.tick_waiter]; exact hw.tick _)
      · obtain ⟨-, -, -, -, hstay⟩ := faulted_turns (s := s) (by simpa [State.faulted, Option.isSome_iff_ne_none] using hf)
        exact .inl (by rwa [hstay])
    · have hnone : [e].count .tick = 0 := List.count_eq_zero.mpr fun h => htick (List.mem_singleton.mp h).symm
      rw [hnone] at hw
      exact .inr ((eventStep_slot he k).endsWithin hw)

theorem settleDown_waitWithin (m : Nat) (h : s.waitWithin k n) : (settleDown m s).waitWithin k n := by
  induction m generalizing s with
  | zero => exact h
  | succ m ih =>
    cases ha : autoStep s with
    | none => rwa [settleDown_none ha]
    | some t =>
      rw [settleDown_succ ha]
      obtain ⟨hf, -⟩ := autoStep_cases ha
      exact ih (.inr ((autoStep_slot ha k).endsWithin (h.resolve_left (not_not.mpr hf))))

/-! ### The choices of one step -/

/-- No choice touches the choices still to come. -/
theorem eventStep_schedule {e : Event} (he : eventStep e s = .next t) : t.env.schedule = s.env.schedule := by
  cases e with
  | sequencer =>
    cases he
    rcases sequencerTurn_cases s with hs | ⟨op, rest, -, -, -, hs⟩ <;> rw [hs]
    exact (sequencerStep_hostSide op rest s).schedule
  | handler =>
    cases he
    rcases handlerTurn_cases s with hs | ⟨-, -, -, hs⟩ | ⟨op, rest, -, -, hs⟩ <;> rw [hs]
    · rfl
    · exact (handlerStep_hostSide op rest s).schedule
  | frameStart =>
    cases he
    unfold frameTurn
    split <;> rfl
  | scanOut =>
    cases he
    unfold scanTurn
    split
    · rfl
    · split <;> rfl
  | tick =>
    cases he
    unfold tickTurn
    split <;> rfl
  | hostRead w o => rcases hostRead_next he with rfl | ⟨x, rfl⟩ <;> rfl
  | hostWrite w o v =>
    rcases hostWrite_next he with rfl | ⟨-, rfl⟩ | rfl
    · rfl
    · rfl
    · rcases writePort_cases s o v with hw | ⟨-, hw⟩ | ⟨-, ⟨k, hw⟩ | hw | ⟨-, r, hw⟩⟩ <;> rw [hw]
      rcases doorbell_cases s v with hd | ⟨-, -, hd⟩ <;> rw [hd]
      rfl
  | memRead a => cases he; rfl
  | memWrite u v => cases he; rfl
  | domainReady l => cases he; rfl
  | reset => cases he; rfl

/-- A run that leaves none of its choices over has performed each of them, TICKs among them. -/
theorem runScheduled_waitWithin (es : List Event) (hs : s.env.schedule = es) (ht : t.env.schedule = [])
    (h : s.waitWithin k (n + es.count .tick)) (hr : runScheduled es s = .next t) : t.waitWithin k n := by
  induction es generalizing s with
  | nil => cases hr; exact settleDown_waitWithin _ h
  | cons e es ih =>
    unfold runScheduled at hr
    split at hr
    · split at hr
      · rename_i he
        have hcount : n + (e :: es).count .tick = n + es.count .tick + [e].count .tick := by
          rw [← List.singleton_append, List.count_append, Nat.add_assoc, Nat.add_comm ([e].count .tick)]
        rw [hcount] at h
        exact ih (eventStep_schedule he) (eventStep_waitWithin (h.withEnv { s.env with schedule := es }) he) hr
      · cases hr
      · cases hr
    · cases hr
      rw [hs] at ht
      cases ht

/-- How a command begins beside a Waiting slot: it ends in its first micro-step and leaves the slot, or it runs. -/
inductive StartsBeside (k : Fin Config.nslot) (s : State) : Host.Outcome State Fault Refusal → Prop
  | ended {u : State} (hs : u.env.schedule = s.env.schedule) (hf : u.port.fault = s.port.fault)
      (hk : u.vsync.waiters[k] = s.vsync.waiters[k]) : StartsBeside k s (.next u)
  | launched (steps : List MicroOp) : StartsBeside k s (launch s steps)

theorem StartsBeside.rejected (s : State) (r : Result) : StartsBeside k s (reject s r) := .ended rfl rfl rfl

/-- A command that needs a configuration. -/
theorem StartsBeside.ready {win : Nat} {f : Win → Host.Outcome State Fault Refusal} (h : ∀ i, StartsBeside k s (f i)) :
    StartsBeside k s (if s.port.configured = true then onWindow s win f else reject s .notReady) := by
  split
  · exact onWindow_elim (.rejected s _) fun i _ => h i
  · exact .rejected s _

/-- A command on an Indexed8 window. -/
theorem StartsBeside.indexed {win : Nat} {f : Win → Host.Outcome State Fault Refusal} (h : ∀ i, StartsBeside k s (f i)) :
    StartsBeside k s (onWindow s win fun i => onIndexed s i (f i)) :=
  onWindow_elim (.rejected s _) fun i _ => onIndexed_elim (P := StartsBeside k s) (.rejected s _) fun _ => h i

/-- VWAIT refuses a Waiting slot, and arming another leaves it (rules R111, R218). -/
theorem vwaitOn_startsBeside (hk : s.vsync.waiters[k].state = .waiting) (j : Fin Config.nslot) :
    StartsBeside k s (vwaitOn s j) := by
  by_cases hj : s.vsync.waiters[j].state = .waiting
  · rw [vwaitOn_waiting hj]
    exact .rejected s _
  · have hne : j.val ≠ k.val := fun h => hj (Fin.ext h ▸ hk)
    rw [vwaitOn_not_waiting hj]
    exact .ended rfl rfl (Vector.getElem_set_ne j.isLt k.isLt hne)

theorem exec_startsBeside (hk : s.vsync.waiters[k].state = .waiting) (i : Instr) : StartsBeside k s (exec i s) := by
  cases i with
  | timing =>
    show StartsBeside k s (execTiming s)
    unfold execTiming
    split
    · exact .rejected s _
    · split
      · exact .rejected s _
      · exact .launched _
  | outon =>
    show StartsBeside k s (execOuton s)
    unfold execOuton
    split
    · exact .launched _
    · exact .rejected s _
  | outoff => exact .launched _
  | wcfg win fmt se db bl pd =>
    refine .ready fun i => ?_
    split
    · exact .rejected s _
    · exact .launched _
  | wpan win =>
    refine .ready fun i => ?_
    split
    · exact .rejected s _
    · exact .launched _
  | wen win =>
    refine .ready fun i => ?_
    split
    · exact .launched _
    · exact .rejected s _
  | wdis win => exact .ready fun i => .launched _
  | pset win idx => exact .indexed fun i => .ended rfl rfl rfl
  | pflush win => exact .indexed fun i => .launched _
  | vwait slot => exact vwaitOn_startsBeside hk _
  | susp =>
    show StartsBeside k s (execSusp s)
    unfold execSusp
    split
    · exact .ended rfl rfl rfl
    · exact .launched _
  | resm =>
    show StartsBeside k s (execResm s)
    unfold execResm
    split
    · exact .ended rfl rfl rfl
    · exact .launched _

theorem startCommand_startsBeside (hk : s.vsync.waiters[k].state = .waiting) :
    StartsBeside k s (startCommand s) := by
  unfold startCommand
  split
  · exact exec_startsBeside hk _
  · exact .rejected s _

theorem startCommand_waitWithin (hk : s.vsync.waiters[k].state = .waiting) (ht : t.env.schedule = [])
    (h : s.waitWithin k (n + s.env.schedule.count .tick)) (hc : startCommand s = .next t) : t.waitWithin k n := by
  generalize ho : startCommand s = o at hc
  have hstarts : StartsBeside k s o := ho ▸ startCommand_startsBeside hk
  cases hstarts with
  | ended hs hf hslot =>
    cases hc
    rw [← hs, ht] at h
    exact h.imp (fun hfault => by rwa [hf]) (fun hw => by rwa [hslot])
  | launched steps => exact runScheduled_waitWithin (s := s.withCsq (.running steps)) _ rfl ht h hc

/-- A step that leaves none of its choices over takes their TICKs off a wait that stands. -/
theorem step_waitWithin {es : List Event} (hk : s.vsync.waiters[k].state = .waiting) (hs : s.env.schedule = es)
    (hne : es ≠ []) (ht : t.env.schedule = []) (h : s.waitWithin k (n + es.count .tick)) (hst : step s = .next t) :
    t.waitWithin k n := by
  obtain ⟨e, es, rfl⟩ := List.exists_cons_of_ne_nil hne
  by_cases hc : e = .sequencer ∧ s.commandWaits = true
  · obtain ⟨rfl, hw⟩ := hc
    rw [step_sequencer_of_commandWaits hw hs] at hst
    exact startCommand_waitWithin (s := { s with env := { s.env with schedule := es } }) hk ht h hst
  · have hevent : step s = eventStep e { s with env := { s.env with schedule := es } } := by
      simpa [step, hs] using fun he hw => absurd ⟨he, hw⟩ hc
    rw [hevent] at hst
    obtain rfl : es = [] := (eventStep_schedule hst).symm.trans ht
    exact eventStep_waitWithin (h.withEnv _) hst

/-! ### Executions without end (rule R296) -/

variable {x : Execution} {m : Nat}

theorem Execution.runs.waitWithin (hx : x.runs) (hk : (x.state m).vsync.waiters[k].state = .waiting)
    (h : (x.state m).waitWithin k (n + (x.chosen m).count .tick)) : (x.state (m + 1)).waitWithin k n := by
  obtain ⟨hne, hnone, hst⟩ := hx m
  exact step_waitWithin (by exact hk) rfl hne hnone (h.withEnv _) hst

/-- By induction on the TICKs that the wait can take: those left before the next TICK are kept until it occurs. -/
theorem Execution.Fair.wait_ends (hfair : x.Fair) (hx : x.runs) (hf : ∀ j, m ≤ j → (x.state j).port.fault = none)
    (h : (x.state m).waitWithin k n) : ∃ j, m ≤ j ∧ (x.state j).vsync.waiters[k].state ≠ .waiting := by
  induction n generalizing m with
  | zero =>
    have hw := h.resolve_left (not_not.mpr (hf m le_rfl))
    exact ⟨m, le_rfl, fun hwaiting => absurd (hw hwaiting) (Nat.not_lt_zero _)⟩
  | succ n ih =>
    by_contra hnever
    have hwaits : ∀ j, m ≤ j → (x.state j).vsync.waiters[k].state = .waiting := by
      simpa only [not_exists, not_and, not_not] using hnever
    have hkept : ∀ j, m ≤ j → (x.state j).waitWithin k (n + 1) := by
      intro j hj
      induction j, hj using Nat.le_induction with
      | base => exact h
      | succ j hj ih => exact hx.waitWithin (hwaits j hj) (ih.mono (Nat.le_add_right _ _))
    obtain ⟨j, hj, htick⟩ := hfair.ticks m
    have hcount : 1 ≤ (x.chosen j).count .tick := List.count_pos_iff.mpr htick
    have hfewer : (x.state (j + 1)).waitWithin k n :=
      hx.waitWithin (hwaits j hj) ((hkept j hj).mono (Nat.add_le_add_left hcount n))
    obtain ⟨l, hl, hended⟩ := ih (fun i hi => hf i (by omega)) hfewer
    exact hnever ⟨l, by omega, hended⟩

/-- Settles O38: a wait can take one TICK more than its remaining ones, and TICKs keep occurring. -/
theorem everyWaitEnds : Obligations.EveryWaitEnds := fun x n k hx hfair hf _ =>
  hfair.wait_ends hx hf (n := (x.state n).vsync.waiters[k].rem.toNat + 1) (.inr fun _ => Nat.lt_succ_self _)

end Sys2Proof.Machine
end
